-- ==== Sys2Proof/Word.lean ====
section
/-!
DEFINITION. The value types of the block: bytes, 32-bit words and byte strings (spec/00_scope.md R8, R10, R11).
-/

namespace Sys2Proof

/-- One byte, an integer 0 to 255 (00_scope.md R11). -/
abbrev Byte := BitVec 8

/-- A 32-bit unsigned value: a register, an address, a length, a ChaCha20 or SHA-256 word (00_scope.md R8, R10). -/
abbrev Word := BitVec 32

/-- A byte string, byte 0 first (00_scope.md R11). -/
abbrev Bytes := List Byte

end Sys2Proof
end

