-- ==== Sys2Proof/Machine/Bytes.lean ====
section
/-!
DEFINITION. Byte strings and integers, word rotations, and cutting a string into blocks (spec/00_scope.md R11 to R13).
-/

namespace Sys2Proof.Machine

/-- `le_int(s)`: the sum over i of `s[i] * 256^i` (00_scope.md R12). -/
def leInt : Bytes → Nat
  | [] => 0
  | b :: s => b.toNat + 256 * leInt s

/-- `be_int(s)`: byte 0 is the most significant (00_scope.md R12). -/
def beInt (s : Bytes) : Nat := leInt s.reverse

/-- `le_bytes(n, v)`: the `n`-byte string whose `le_int` is `v mod 256^n` (00_scope.md R12). -/
def leBytes : Nat → Nat → Bytes
  | 0, _ => []
  | n + 1, v => BitVec.ofNat 8 v :: leBytes n (v / 256)

/-- `be_bytes(n, v)`: the `n`-byte string whose `be_int` is `v mod 256^n` (00_scope.md R12). -/
def beBytes (n v : Nat) : Bytes := (leBytes n v).reverse

/-- `rotl32(x, n)` (00_scope.md R13). -/
def rotl32 (x : Word) (n : Nat) : Word := (x <<< n) ||| (x >>> (32 - n))

/-- `rotr32(x, n) = rotl32(x, 32 - n)` (00_scope.md R13). -/
def rotr32 (x : Word) (n : Nat) : Word := rotl32 x (32 - n)

/-- The bytes of block `i` of `m`, `n` bytes to a block: `m[n*i .. min(n*i + n, len(m)))`. -/
def blockAt (n : Nat) (m : Bytes) (i : Nat) : Bytes := (m.drop (n * i)).take n

/-- `m` cut into `ceil(len(m) / n)` blocks of `n` bytes, the last one possibly shorter. -/
def blocks (n : Nat) (m : Bytes) : List Bytes :=
  (List.range ((m.length + (n - 1)) / n)).map (blockAt n m)

/-- The byte-by-byte XOR of two strings, as long as the shorter one. -/
def xorBytes (a b : Bytes) : Bytes := List.zipWith (fun x y => x ^^^ y) a b

/-- The little-endian 32-bit word at bytes `4i .. 4i+3` of `s`. -/
def leWord (s : Bytes) (i : Nat) : Word := BitVec.ofNat 32 (leInt (blockAt 4 s i))

/-- The big-endian 32-bit word at bytes `4i .. 4i+3` of `s`. -/
def beWord (s : Bytes) (i : Nat) : Word := BitVec.ofNat 32 (beInt (blockAt 4 s i))

/-- `0^n`: `n` zero bytes (00_scope.md R11). -/
def zeros (n : Nat) : Bytes := List.replicate n 0

end Sys2Proof.Machine
end

