-- ==== Sys2Proof/Config.lean ====
section
/-!
DEFINITION. What is fixed for the machine and what the spec leaves open: the parameters of spec/00_scope.md R8 and
spec/92_eei_decisions.md, and the free values (constants without a body, so that no proof can see what they are).
-/

namespace Sys2Proof.Config

/-- The default of the parameter `DMEM_BYTES` (00_scope.md R8, R9): what DMEMSZ holds in the reset state. Statements
hold for every value of the DMEMSZ field (log entry 5). -/
def dmemBytesDefault : Word := 0x20000

/-- The legal values of `DMEM_BYTES`: a multiple of 4 with 0x1000 <= `DMEM_BYTES` <= 0x100000 (00_scope.md R8). -/
def legalDmemBytes (n : Word) : Bool :=
  n.toNat % 4 == 0 && decide (0x1000 ≤ n.toNat) && decide (n.toNat ≤ 0x100000)

/-- FREE VALUE `LATENCY` (00_scope.md R8, R19; 93_implementation_defined.md U3): how many host bus transactions come
between the `k`-th accepted START and its completion. Any finite number, not fixed (log entry 2). -/
opaque latency : Nat → Nat

/-- FREE VALUE `DMEM_POR` (00_scope.md R8; 70_reset_and_hazards.md R164; 93 U1, U2): the byte that DMEM address `a` holds
after the `k`-th power-on reset, until something writes it (log entry 3). -/
opaque dmemPor : Nat → Nat → Byte

/-- FREE VALUE (41_ecdh.md R107): the 33 bytes `compress` gives for the point at infinity, which has no compressed
encoding. R110: no command ever needs it (log entry 9). -/
opaque infinityEncoding : Vector Byte 33

/-- FREE VALUE: which 2 MiB unit of the platform's address space the window occupies. -/
opaque blockBaseUnit : Nat

/-- `BLOCK_BASE`, OPEN: any 2 MiB-aligned address of the platform (00_scope.md R8; log entry 6). -/
def blockBase : Nat := blockBaseUnit * 0x200000

end Sys2Proof.Config
end

