-- ==== Sys2Proof/Machine/State.lean ====
section
/-!
DEFINITION. The state of the block as plain data (spec/10_state.md R20 to R44), the model's own record of the host
(spec/00_scope.md R19), and the state right after power-on reset (10_state.md R43; 70_reset_and_hazards.md R164).
-/

namespace Sys2Proof.Machine

/-- The engine's phase (10_state.md R38; 44_control.md R136). -/
inductive Phase where
  /-- no command is held, STATUS.BUSY = 0 -/
  | idle
  /-- one latched command is held, STATUS.BUSY = 1 -/
  | busy
  deriving DecidableEq, Repr

/-- The latched operand record `L` (10_state.md R38). -/
structure Latched where
  op : BitVec 8
  adh : Bool
  rsv : BitVec 23
  src : Word
  len : Word
  key : Word
  ad : Word
  adlen : Word
  dst : Word
  ctr : BitVec 64
  deriving DecidableEq, Repr

/-- The latched record in the reset state: the spec leaves it undefined and unread (10_state.md R38, R43), DESIGN CHOICE
zero (log entry 4). -/
def Latched.initial : Latched :=
  { op := 0, adh := false, rsv := 0, src := 0, len := 0, key := 0, ad := 0, adlen := 0, dst := 0, ctr := 0 }

/-- What the DMEM bytes that nothing has written since the last reset hold (10_state.md R39, R43). -/
inductive Fill where
  /-- after power-on reset number `k`: the draw `DMEM_POR`, a free value -/
  | drawn (k : Nat)
  /-- after a soft reset: zero -/
  | zeroed
  deriving DecidableEq, Repr

/-- DMEM (10_state.md R39): the bytes written since the last reset, and what every other byte holds. Canonical form:
addresses strictly rising, no entry equal to what an unlisted address holds (`Memory.wf` in Machine/Ops.lean). -/
structure Memory where
  fill : Fill
  cells : List Host.Cell
  deriving DecidableEq, Repr

/-- The width of a host bus access (20_memory.md R47, R48). -/
inductive Width where
  | byte
  | half
  | word
  /-- any other width: a bus error wherever it goes -/
  | other (bits : Nat)
  deriving DecidableEq, Repr

/-- One host bus transaction at an offset of the 2 MiB host window (20_memory.md R45, R46). Every 21-bit offset lies in
the window. A narrow write carries its data in the low bits (log entry 12). -/
inductive Access where
  | read (width : Width) (offset : BitVec 21)
  | write (width : Width) (offset : BitVec 21) (data : Word)
  deriving DecidableEq, Repr

/-- What reaches the block from outside: a host transaction, or a power-on reset (log entry 15). -/
inductive HostEvent where
  | access (a : Access)
  | powerOn
  deriving DecidableEq, Repr

/-- What the host sees of one transaction (20_memory.md R50, R51, R56). -/
inductive Reply where
  /-- read data; a narrow read's data is zero-extended (log entry 12) -/
  | data (v : Word)
  /-- a write acknowledge -/
  | ack
  /-- a bus error response (20_memory.md R50) -/
  | busError
  deriving DecidableEq, Repr

/-- The state of the block (10_state.md R20) and, last, the model's own fields. -/
structure State where
  /-- CTRL.IRQ_EN (10_state.md R25) -/
  irqEn : Bool
  /-- STATUS.DONE (R26) -/
  done : Bool
  /-- STATUS.ERR (R26) -/
  err : Bool
  /-- STATUS.OVR (R26) -/
  ovr : Bool
  /-- STATUS.ERRCODE (R26) -/
  errcode : BitVec 8
  /-- STATUS.LASTOP (R26) -/
  lastop : BitVec 8
  /-- CMD (R28) -/
  cmd : Word
  /-- SRC (R29) -/
  src : Word
  /-- LEN (R30) -/
  len : Word
  /-- KEY (R31) -/
  key : Word
  /-- AD (R32) -/
  ad : Word
  /-- ADLEN (R32) -/
  adlen : Word
  /-- DST (R33) -/
  dst : Word
  /-- CTR_LO (R34) -/
  ctrLo : Word
  /-- CTR_HI (R34) -/
  ctrHi : Word
  /-- OUTLEN (R37) -/
  outlen : Word
  /-- DMEMSZ (R37): `DMEM_BYTES`, which no step changes -/
  dmemsz : Word
  /-- the transcript `H` (R35), shown as H0 to H7 (R36) -/
  h : Vector Byte 32
  /-- `H_EMPTY` (R35), shown as STATUS.H_EMPTY (R26) -/
  hEmpty : Bool
  /-- the engine's phase (R38), shown as STATUS.BUSY (R26) -/
  phase : Phase
  /-- the latched operands `L` (R38) -/
  latched : Latched
  /-- DMEM (R39) -/
  dmem : Memory
  /-- the model's own: how many more host events come before the running command's completion (log entry 2) -/
  wait : Nat
  /-- the model's own: how many STARTs were accepted, which picks the next `LATENCY` draw (log entry 2) -/
  starts : Nat
  /-- the model's own: how many power-on resets came after the first, which picks the `DMEM_POR` draw (log entry 3) -/
  powerOns : Nat
  /-- the model's own: the host events still to come, the next one first (log entry 1) -/
  pending : List HostEvent
  /-- the model's own: what the host saw of each transaction performed, the latest first (log entry 1) -/
  replies : List Reply
  deriving DecidableEq, Repr

/-- Why the machine could stop with a fault. No constructor: the block has no trap, a command error is a completion
(60_exceptions.md R147) and a bus error is a response that changes nothing (20_memory.md R50). -/
inductive Fault where
  deriving DecidableEq, Repr

/-- Why the model could refuse an instruction. -/
inductive Refusal where
  /-- raised by an arm of `exec` whose instruction has no meaning yet: none is left, and safe if one were, because the
  model would stop where the hardware goes on -/
  | notModelled (mnemonic : String)
  deriving DecidableEq, Repr

/-- The block right after power-on reset (10_state.md R43; 70_reset_and_hazards.md R164): `phase` = IDLE, every flag 0 but
H_EMPTY = 1, every register 0, DMEM the draw `DMEM_POR`. DMEMSZ is the default `DMEM_BYTES` (log entry 5); the latched record
and the model's own fields are DESIGN CHOICE (log entries 1 to 4). -/
def State.reset : State :=
  { irqEn := false, done := false, err := false, ovr := false, errcode := 0, lastop := 0
    cmd := 0, src := 0, len := 0, key := 0, ad := 0, adlen := 0, dst := 0, ctrLo := 0, ctrHi := 0
    outlen := 0, dmemsz := Config.dmemBytesDefault
    h := Vector.replicate 32 0, hEmpty := true
    phase := .idle, latched := Latched.initial
    dmem := { fill := .drawn 0, cells := [] }
    wait := 0, starts := 0, powerOns := 0, pending := [], replies := [] }

end Sys2Proof.Machine
end

