-- ==== Sys2Proof/Machine/Flags.lean ====
section
/-!
DEFINITION. The block's flags (spec/10_state.md R42): the error codes, the STATUS and CTRL words, the write-1-to-clear
rule and the interrupt output.
-/

namespace Sys2Proof.Machine

/-- The command errors (60_exceptions.md R148). -/
inductive ErrCode where
  | illegal
  | bounds
  | malformed
  | authFail
  | invalidPubkey
  | invalidSeckey
  deriving DecidableEq, Repr

/-- The STATUS.ERRCODE of each error (60_exceptions.md R148); NONE is 0. -/
def ErrCode.code : ErrCode → BitVec 8
  | .illegal => 0x01
  | .bounds => 0x02
  | .malformed => 0x03
  | .authFail => 0x04
  | .invalidPubkey => 0x05
  | .invalidSeckey => 0x06

/-- STATUS.BUSY reads `phase = BUSY` (10_state.md R26). -/
def State.busy (s : State) : Bool := s.phase == .busy

/-- The STATUS register as the host reads it (10_state.md R26): reserved bits 31..24 and 7..5 read 0. -/
def State.statusWord (s : State) : Word :=
  (BitVec.ofBool s.busy).setWidth 32 ||| (BitVec.ofBool s.done).setWidth 32 <<< 1
    ||| (BitVec.ofBool s.err).setWidth 32 <<< 2 ||| (BitVec.ofBool s.ovr).setWidth 32 <<< 3
    ||| (BitVec.ofBool s.hEmpty).setWidth 32 <<< 4 ||| s.errcode.setWidth 32 <<< 8 ||| s.lastop.setWidth 32 <<< 16

/-- CTRL as the host reads it: `IRQ_EN << 2`; START and SRST read 0 (10_state.md R25). -/
def State.ctrlWord (s : State) : Word := (BitVec.ofBool s.irqEn).setWidth 32 <<< 2

/-- A host write of `v` to STATUS: write-1-to-clear of DONE, ERR and OVR, every other bit ignored (10_state.md R27). -/
def State.writeStatus (s : State) (v : Word) : State :=
  { s with
    done := s.done && !v.getLsbD 1
    err := s.err && !v.getLsbD 2
    ovr := s.ovr && !v.getLsbD 3 }

/-- The interrupt output `irq = CTRL.IRQ_EN and (STATUS.DONE or STATUS.ERR)` (10_state.md R41). -/
def State.irq (s : State) : Bool := s.irqEn && (s.done || s.err)

end Sys2Proof.Machine
end

