-- ==== Sys2Proof/Machine/Ops.lean ====
section
/-!
DEFINITION. The shared operations: DMEM reads and writes, the two ends of a command (success and error), START, and the
two resets (spec/00_scope.md R14, R15; 44_control.md R137 to R140; 60_exceptions.md R150; 70_reset_and_hazards.md R164, R165).
-/

namespace Sys2Proof.Machine

/-- What an unlisted DMEM address holds: after power-on no value that the spec gives, after a soft reset zero
(10_state.md R43). -/
def Memory.unlisted (m : Memory) : Option Byte :=
  match m.fill with
  | .drawn _ => none
  | .zeroed => some 0

/-- What a byte that nothing has written reads as: the `DMEM_POR` draw after power-on, which a command computes on (93
U2), zero after a soft reset. -/
def Fill.byteAt (f : Fill) (a : Nat) : Byte :=
  match f with
  | .drawn k => Config.dmemPor k a
  | .zeroed => 0

/-- The byte listed at address `a`, if there is one. -/
def lookupCell : List Host.Cell → Nat → Option Byte
  | [], _ => none
  | c :: cs, a => if c.1 = a then some c.2 else lookupCell cs a

/-- The DMEM byte at address `a` (10_state.md R39). -/
def Memory.read (m : Memory) (a : Nat) : Byte := (lookupCell m.cells a).getD (m.fill.byteAt a)

/-- `DMEM[a .. a+n)`. -/
def Memory.readBytes (m : Memory) (a n : Nat) : Bytes := (List.range n).map fun i => m.read (a + i)

/-- The entries that the bytes `bs` from address `a` need: none for a byte an unlisted address holds anyway. -/
def Memory.entries (m : Memory) : Nat → Bytes → List Host.Cell
  | _, [] => []
  | a, b :: bs => if m.unlisted = some b then m.entries (a + 1) bs else (a, b) :: m.entries (a + 1) bs

/-- DMEM with the bytes `bs` stored from address `a` on, in canonical form. -/
def Memory.writeBytes (m : Memory) (a : Nat) (bs : Bytes) : Memory :=
  { m with
    cells := m.cells.filter (fun c => decide (c.1 < a)) ++ m.entries a bs
      ++ m.cells.filter (fun c => decide (a + bs.length ≤ c.1)) }

/-- The canonical form of a DMEM of `size` bytes: addresses strictly rising and below `size`, no entry equal to what an
unlisted address holds. -/
def Memory.wf (m : Memory) (size : Nat) : Bool :=
  decide (m.cells.Pairwise fun c d => c.1 < d.1) && m.cells.all fun c => decide (c.1 < size) && m.unlisted != some c.2

/-- `MemRead(a, n)` (00_scope.md R14), used on in-range regions only (20_memory.md R60). -/
def State.memRead (s : State) (a : Word) (n : Nat) : Bytes := s.dmem.readBytes a.toNat n

/-- `MemWrite(a, n, v)` with `n` = the length of `v` (00_scope.md R14), used on in-range regions only (20_memory.md R60). -/
def State.memWrite (s : State) (a : Word) (v : Bytes) : State := { s with dmem := s.dmem.writeBytes a.toNat v }

/-- `complete(n)`: the command ends with success (44_control.md R140). The pending writes stand in `s` already. The latched
record, whose value while IDLE the spec leaves open (10_state.md R38), stays: DESIGN CHOICE (log entry 4). -/
def State.complete (s : State) (n : Nat) : State :=
  { s with
    done := true
    err := false
    errcode := 0
    lastop := s.latched.op
    outlen := BitVec.ofNat 32 n
    phase := .idle
    wait := 0 }

/-- `raise E`: the command ends with an error and no other effect (60_exceptions.md R150). This is the block's only
exception entry: there is no vector, no saved pc and no mode (R147). The latched record, whose value while IDLE the spec
leaves open (10_state.md R38), stays: DESIGN CHOICE (log entry 4). -/
def State.raise (s : State) (e : ErrCode) : State :=
  { s with
    done := false
    err := true
    errcode := e.code
    lastop := s.latched.op
    outlen := 0
    phase := .idle
    wait := 0 }

/-- `REG(CTR_HI) * 2^32 + REG(CTR_LO)` (10_state.md R34). -/
def State.counter (s : State) : BitVec 64 := BitVec.ofNat 64 (s.ctrHi.toNat * 2 ^ 32 + s.ctrLo.toNat)

/-- The operand record that START copies from CMD and the operand registers (10_state.md R38; 44_control.md R137). -/
def State.operands (s : State) : Latched :=
  { op := s.cmd.extractLsb' 0 8, adh := s.cmd.getLsbD 8, rsv := s.cmd.extractLsb' 9 23
    src := s.src, len := s.len, key := s.key, ad := s.ad, adlen := s.adlen, dst := s.dst
    ctr := s.counter }

/-- START (44_control.md R137, R138): accepted while IDLE, refused with OVR while BUSY. An accepted START draws the
`LATENCY` of its command (log entry 2). -/
def State.start (s : State) : State :=
  match s.phase with
  | .idle =>
    { s with
      latched := s.operands
      done := false
      err := false
      errcode := 0
      outlen := 0
      phase := .busy
      wait := Config.latency s.starts
      starts := s.starts + 1 }
  | .busy => { s with ovr := true }

/-- Every piece of the block's state but DMEM at its reset value (10_state.md R43), DMEM as given. DMEMSZ and the model's
record of the host stay (log entry 15). -/
def State.resetWith (s : State) (m : Memory) : State :=
  { s with
    irqEn := false, done := false, err := false, ovr := false, errcode := 0, lastop := 0
    cmd := 0, src := 0, len := 0, key := 0, ad := 0, adlen := 0, dst := 0, ctrLo := 0, ctrHi := 0
    outlen := 0, h := Vector.replicate 32 0, hEmpty := true
    phase := .idle, latched := Latched.initial, dmem := m, wait := 0 }

/-- Soft reset: every DMEM byte becomes 0x00 (70_reset_and_hazards.md R165); a running command is aborted (R166). -/
def State.softReset (s : State) : State := s.resetWith { fill := .zeroed, cells := [] }

/-- Power-on reset: DMEM holds a new draw of `DMEM_POR` (70_reset_and_hazards.md R164). -/
def State.powerOnReset (s : State) : State :=
  { s.resetWith { fill := .drawn (s.powerOns + 1), cells := [] } with powerOns := s.powerOns + 1 }

/-- A host write of `v` to CTRL: IRQ_EN takes bit 2, then SRST acts, else START (10_state.md R25). -/
def State.writeCtrl (s : State) (v : Word) : State :=
  if v.getLsbD 1 then State.softReset { s with irqEn := v.getLsbD 2 }
  else if v.getLsbD 0 then State.start { s with irqEn := v.getLsbD 2 }
  else { s with irqEn := v.getLsbD 2 }

end Sys2Proof.Machine
end

