-- ==== Sys2Proof/Machine/RegisterPage.lean ====
section
/-!
DEFINITION. The register page: which register stands at which offset, and what a host read and write of each does
(spec/10_state.md R21 to R40).
-/

namespace Sys2Proof.Machine

/-- The registers of the page (10_state.md R21). -/
inductive Reg where
  | id
  | ctrl
  | status
  | cmd
  | src
  | len
  | key
  | ad
  | adlen
  | dst
  | ctrLo
  | ctrHi
  | outlen
  | dmemsz
  /-- H0 to H7 (R36) -/
  | hWord (k : Fin 8)
  /-- a reserved offset: reads 0, writes are ignored (R40) -/
  | reserved
  deriving DecidableEq, Repr

/-- The register at a 4-byte-aligned offset of the page (10_state.md R21). -/
def regAt (offset : Nat) : Reg :=
  match offset with
  | 0x000 => .id
  | 0x004 => .ctrl
  | 0x008 => .status
  | 0x00C => .cmd
  | 0x010 => .src
  | 0x014 => .len
  | 0x018 => .key
  | 0x01C => .ad
  | 0x020 => .adlen
  | 0x024 => .dst
  | 0x028 => .ctrLo
  | 0x02C => .ctrHi
  | 0x030 => .outlen
  | 0x034 => .dmemsz
  | 0x040 => .hWord 0
  | 0x044 => .hWord 1
  | 0x048 => .hWord 2
  | 0x04C => .hWord 3
  | 0x050 => .hWord 4
  | 0x054 => .hWord 5
  | 0x058 => .hWord 6
  | 0x05C => .hWord 7
  | _ => .reserved

/-- ID reads 0x4C430007 at all times (10_state.md R24). -/
def idValue : Word := 0x4C430007

/-- What a host read of a register returns: no read has a side effect (20_memory.md R55). H0 to H7 show the transcript
in little-endian lanes (10_state.md R36). -/
def State.readReg (s : State) : Reg → Word
  | .id => idValue
  | .ctrl => s.ctrlWord
  | .status => s.statusWord
  | .cmd => s.cmd
  | .src => s.src
  | .len => s.len
  | .key => s.key
  | .ad => s.ad
  | .adlen => s.adlen
  | .dst => s.dst
  | .ctrLo => s.ctrLo
  | .ctrHi => s.ctrHi
  | .outlen => s.outlen
  | .dmemsz => s.dmemsz
  | .hWord k => leWord s.h.toList k
  | .reserved => 0

/-- What a host write of `v` to a register does. CMD and the operand registers take the value at any time (10_state.md
R23, R28); a write to a read-only or reserved register is ignored (R40; 20_memory.md R56). -/
def State.writeReg (s : State) (r : Reg) (v : Word) : State :=
  match r with
  | .id => s
  | .ctrl => s.writeCtrl v
  | .status => s.writeStatus v
  | .cmd => { s with cmd := v }
  | .src => { s with src := v }
  | .len => { s with len := v }
  | .key => { s with key := v }
  | .ad => { s with ad := v }
  | .adlen => { s with adlen := v }
  | .dst => { s with dst := v }
  | .ctrLo => { s with ctrLo := v }
  | .ctrHi => { s with ctrHi := v }
  | .outlen => s
  | .dmemsz => s
  | .hWord _ => s
  | .reserved => s

end Sys2Proof.Machine
end

