-- ==== Sys2Proof/Machine/Bus.lean ====
section
/-!
DEFINITION. One host bus transaction: the window layout, widths and alignment, byte order, bus errors (spec/20_memory.md
R45 to R58).
-/

namespace Sys2Proof.Machine

/-- What stands at an offset of the host window (20_memory.md R46). -/
inductive Target where
  /-- the register page, with the offset in it -/
  | page (offset : Nat)
  /-- DMEM, with the command address -/
  | dmem (address : Nat)
  | unmapped
  deriving DecidableEq, Repr

/-- The window layout (20_memory.md R46). -/
def State.target (s : State) (offset : BitVec 21) : Target :=
  if offset.toNat < 0x1000 then .page offset.toNat
  else if 0x100000 ≤ offset.toNat ∧ offset.toNat < 0x100000 + s.dmemsz.toNat then .dmem (offset.toNat - 0x100000)
  else .unmapped

/-- The host bus address of an offset of the window (20_memory.md R45). -/
def busAddress (offset : BitVec 21) : Nat := Config.blockBase + offset.toNat

/-- How many bytes an access of a legal width moves (20_memory.md R48). -/
def Width.bytes : Width → Option Nat
  | .byte => some 1
  | .half => some 2
  | .word => some 4
  | .other _ => none

/-- The register a host access reaches: 32-bit accesses at aligned offsets of the register page only (20_memory.md R47). -/
def State.accessReg (s : State) (w : Width) (offset : BitVec 21) : Option Reg :=
  match w, s.target offset with
  | .word, .page o => if o % 4 = 0 then some (regAt o) else none
  | _, _ => none

/-- The DMEM bytes a host access reaches, first address and number: naturally aligned 8-, 16- and 32-bit accesses of the
DMEM window only (20_memory.md R48). -/
def State.accessDmem (s : State) (w : Width) (offset : BitVec 21) : Option (Nat × Nat) :=
  match w.bytes, s.target offset with
  | some n, .dmem a => if a % n = 0 then some (a, n) else none
  | _, _ => none

/-- What a host read returns: the register, or `le_int` of the bytes (20_memory.md R51), or a bus error (R47 to R50). -/
def State.busRead (s : State) (w : Width) (offset : BitVec 21) : Reply :=
  match s.accessReg w offset with
  | some r => .data (s.readReg r)
  | none =>
    match s.accessDmem w offset with
    | some (a, n) => .data (BitVec.ofNat 32 (leInt (s.dmem.readBytes a n)))
    | none => .busError

/-- What a host write does to the block, and what the host sees: an acknowledge, also where the write is ignored
(20_memory.md R56), or a bus error that changes nothing (R50). -/
def State.busWrite (s : State) (w : Width) (offset : BitVec 21) (v : Word) : State × Reply :=
  match s.accessReg w offset with
  | some r => (s.writeReg r v, .ack)
  | none =>
    match s.accessDmem w offset with
    | some (a, n) => ({ s with dmem := s.dmem.writeBytes a (leBytes n v.toNat) }, .ack)
    | none => (s, .busError)

/-- One host bus transaction, one atomic step (20_memory.md R54), with its reply recorded for the host. -/
def State.perform (s : State) : Access → State
  | .read w o => { s with replies := s.busRead w o :: s.replies }
  | .write w o v =>
    let r := s.busWrite w o v
    { r.1 with replies := r.2 :: r.1.replies }

/-- The offset an access goes to. -/
def Access.offset : Access → BitVec 21
  | .read _ o => o
  | .write _ o _ => o

/-- A host access to the DMEM window is held while BUSY = 1 (20_memory.md R57); a register-page access never is (R58).
An access to the DMEM window that will get a bus error is held too (DEDUCED, log entry 8). -/
def State.held (s : State) : HostEvent → Bool
  | .powerOn => false
  | .access a =>
    s.busy && (match s.target a.offset with
      | .dmem _ => true
      | .page _ => false
      | .unmapped => false)

end Sys2Proof.Machine
end

