-- ==== Sys2Proof/Syntax.lean ====
section
/-!
DEFINITION. The block's commands (spec/30_encoding.md R70 to R76): the command word's fields and the twelve commands.
-/

namespace Sys2Proof

/-- The three fields of the 32-bit command word (30_encoding.md R70). -/
structure CommandWord where
  /-- bits 7..0, the opcode (R71) -/
  op : BitVec 8
  /-- bit 8, the AEAD associated-data select (R72) -/
  adh : Bool
  /-- bits 31..9, reserved, must be zero (R73) -/
  rsv : BitVec 23
  deriving DecidableEq, Repr

/-- What CMD.ADH selects as the associated data of AEAD_ENC and AEAD_DEC (30_encoding.md R72). -/
inductive AdSource where
  /-- ADH = 0: the DMEM region (AD, ADLEN) -/
  | region
  /-- ADH = 1: the 32-byte transcript value H -/
  | transcript
  deriving DecidableEq, Repr

/-- The twelve commands of 30_encoding.md R76, one constructor for each row of spec/opcode_table.json. The command word
carries no other operand: every operand comes from a latched register (R74). -/
inductive Instr where
  /-- 0x00, 44_control.md R143 -/
  | nop
  /-- 0x01, 40_aead.md R96 -/
  | aeadEnc (adSource : AdSource)
  /-- 0x02, 40_aead.md R97 -/
  | aeadDec (adSource : AdSource)
  /-- 0x03, 41_ecdh.md R113 -/
  | ecdh
  /-- 0x04, 41_ecdh.md R114 -/
  | ecpub
  /-- 0x05, 41_ecdh.md R115 -/
  | pkcheck
  /-- 0x06, 42_hkdf.md R121 -/
  | hkdf
  /-- 0x07, 43_transcript.md R131 -/
  | hinit
  /-- 0x08, 43_transcript.md R132 -/
  | hupd
  /-- 0x09, 43_transcript.md R133 -/
  | hread
  /-- 0x0A, 43_transcript.md R130 -/
  | sha
  /-- 0x0B, 44_control.md R144 -/
  | zero
  deriving DecidableEq, Repr

end Sys2Proof
end

