-- ==== Sys2Proof/WellFormed.lean ====
section
/-!
DEFINITION. Which command words are legal (spec/30_encoding.md R79). A term of Instr is legal by its type: it has no
field that could hold a reserved bit, an unassigned opcode or a stray ADH bit. What can be ill-formed is the command
word that the host writes to CMD, so the checks are on its fields.
-/

namespace Sys2Proof.CommandWord

/-- RSV = CMD[31:9] must be zero for every opcode (30_encoding.md R73). -/
def reservedZero (c : CommandWord) : Bool := c.rsv == 0

/-- Twelve opcodes are assigned, 0x00 to 0x0B (30_encoding.md R71). -/
def opAssigned (c : CommandWord) : Bool := decide (c.op.toNat ≤ 0x0B)

/-- ADH may be 1 for AEAD_ENC and AEAD_DEC only (30_encoding.md R72). -/
def adhAllowed (c : CommandWord) : Bool := !c.adh || c.op == 0x01 || c.op == 0x02

/-- A command word is legal when it is not illegal under 30_encoding.md R79. -/
def wellFormed (c : CommandWord) : Bool := c.reservedZero && c.opAssigned && c.adhAllowed

end Sys2Proof.CommandWord
end

