-- ==== Sys2Proof/Decode.lean ====
section
/-!
DEFINITION. Decoding the command word, total on every 32-bit word and rejecting by name (spec/30_encoding.md R78), and
encoding a command (R76).
-/

namespace Sys2Proof

/-- Why a command word is illegal, in the order of the tests of 30_encoding.md R78. -/
inductive Reject where
  /-- an RSV bit is set (R73) -/
  | reservedBits
  /-- OP is 0x0C to 0xFF (R71) -/
  | unassignedOp (op : BitVec 8)
  /-- ADH = 1 with an opcode other than AEAD_ENC and AEAD_DEC (R72) -/
  | adhNotAllowed (op : BitVec 8)
  deriving DecidableEq, Repr

/-- The fields of a command word: OP = w[7:0], ADH = w[8], RSV = w[31:9] (30_encoding.md R70). -/
def splitWord (w : Word) : CommandWord :=
  { op := w.extractLsb' 0 8, adh := w.getLsbD 8, rsv := w.extractLsb' 9 23 }

/-- The command word with the given fields: `OP | ADH << 8 | RSV << 9` (30_encoding.md R78). -/
def joinWord (c : CommandWord) : Word :=
  c.op.setWidth 32 ||| (BitVec.ofBool c.adh).setWidth 32 <<< 8 ||| c.rsv.setWidth 32 <<< 9

/-- CMD.ADH as the associated-data select (30_encoding.md R72). -/
def adSourceOf (adh : Bool) : AdSource := if adh then .transcript else .region

/-- `decode` of 30_encoding.md R78, on the fields: first RSV, then OP, then ADH, then the opcode map of R76. -/
def decodeFields (c : CommandWord) : Except Reject Instr :=
  if c.rsv ≠ 0 then .error .reservedBits
  else if 0x0B < c.op.toNat then .error (.unassignedOp c.op)
  else if c.adh && c.op != 0x01 && c.op != 0x02 then .error (.adhNotAllowed c.op)
  else match c.op.toNat with
    | 0x00 => .ok .nop
    | 0x01 => .ok (.aeadEnc (adSourceOf c.adh))
    | 0x02 => .ok (.aeadDec (adSourceOf c.adh))
    | 0x03 => .ok .ecdh
    | 0x04 => .ok .ecpub
    | 0x05 => .ok .pkcheck
    | 0x06 => .ok .hkdf
    | 0x07 => .ok .hinit
    | 0x08 => .ok .hupd
    | 0x09 => .ok .hread
    | 0x0A => .ok .sha
    | 0x0B => .ok .zero
    | _ => .error (.unassignedOp c.op)

/-- Decoding a 32-bit command word: a decoder needs only the CMD value (30_encoding.md R70, R78). -/
def decode (w : Word) : Except Reject Instr := decodeFields (splitWord w)

/-- The ADH bit that selects an associated-data source (30_encoding.md R72). -/
def adhOf : AdSource → Bool
  | .region => false
  | .transcript => true

/-- The opcode of each command (30_encoding.md R76). -/
def opcodeOf : Instr → BitVec 8
  | .nop => 0x00
  | .aeadEnc _ => 0x01
  | .aeadDec _ => 0x02
  | .ecdh => 0x03
  | .ecpub => 0x04
  | .pkcheck => 0x05
  | .hkdf => 0x06
  | .hinit => 0x07
  | .hupd => 0x08
  | .hread => 0x09
  | .sha => 0x0A
  | .zero => 0x0B

/-- The ADH bit of each command's word (30_encoding.md R72, R76). -/
def adhBitOf : Instr → Bool
  | .aeadEnc a => adhOf a
  | .aeadDec a => adhOf a
  | .nop => false
  | .ecdh => false
  | .ecpub => false
  | .pkcheck => false
  | .hkdf => false
  | .hinit => false
  | .hupd => false
  | .hread => false
  | .sha => false
  | .zero => false

/-- The fields of each command's word (30_encoding.md R76). -/
def encodeFields (i : Instr) : CommandWord := { op := opcodeOf i, adh := adhBitOf i, rsv := 0 }

/-- The command word of each command: `OP` for ADH = 0 and `OP | 0x100` for ADH = 1 (30_encoding.md R76). -/
def encode (i : Instr) : Word := joinWord (encodeFields i)

/-- The command the decoder reads from a command word whose bits are `w`, numbered as spec/opcode_table.json numbers
them; the bits above `nbits` are 0. The block's one format is the 32-bit register value CMD (30_encoding.md R70), so a
longer word is no command word. -/
def decodeTableWord (nbits w : Nat) : Option Instr :=
  if w % 2 ^ nbits < 2 ^ 32 then (decode (BitVec.ofNat 32 (w % 2 ^ nbits))).toOption else none

end Sys2Proof
end

