-- ==== Sys2Proof/Machine/Operands.lean ====
section
/-!
DEFINITION. Command operands: regions of DMEM, the range check, the associated data, and the table of the regions of
each command (spec/20_memory.md R60; 30_encoding.md R72, R74 to R77).
-/

namespace Sys2Proof.Machine

/-- `in_range(a, n)`: `a + n <= DMEM_BYTES` on unbounded integers, with no 32-bit wrap (20_memory.md R60). -/
def State.inRange (s : State) (a : Word) (n : Nat) : Bool := decide (a.toNat + n ≤ s.dmemsz.toNat)

/-- Whether the associated data is in range: the transcript always is (30_encoding.md R72; 40_aead.md R96). -/
def State.adInRange (s : State) : AdSource → Bool
  | .region => s.inRange s.latched.ad s.latched.adlen.toNat
  | .transcript => true

/-- The associated data of an AEAD command (30_encoding.md R72). -/
def State.adBytes (s : State) : AdSource → Bytes
  | .region => s.memRead s.latched.ad s.latched.adlen.toNat
  | .transcript => s.h.toList

/-- The latched command word, `L.OP | L.ADH << 8 | L.RSV << 9` (30_encoding.md R78). -/
def Latched.commandWord (l : Latched) : CommandWord := { op := l.op, adh := l.adh, rsv := l.rsv }

/-- The associated-data region, read only when ADH = 0 (30_encoding.md R72). -/
def Latched.adRegion (l : Latched) : AdSource → List (Word × Nat)
  | .region => [(l.ad, l.adlen.toNat)]
  | .transcript => []

/-- The "in regions" column of the table of 30_encoding.md R77. -/
def inRegions (i : Instr) (l : Latched) : List (Word × Nat) :=
  match i with
  | .nop => []
  | .aeadEnc a => [(l.key, 32), (l.src, l.len.toNat)] ++ l.adRegion a
  | .aeadDec a => [(l.key, 32), (l.src, l.len.toNat)] ++ l.adRegion a
  | .ecdh => [(l.src, 33), (l.key, 32)]
  | .ecpub => [(l.key, 32)]
  | .pkcheck => [(l.src, 33)]
  | .hkdf => [(l.key, 32), (l.src, l.len.toNat)]
  | .hinit => []
  | .hupd => [(l.src, l.len.toNat)]
  | .hread => []
  | .sha => [(l.src, l.len.toNat)]
  | .zero => []

/-- The "out region" column of the table of 30_encoding.md R77: the region at DST that the command writes. -/
def outRegion (i : Instr) (l : Latched) : Option (Word × Nat) :=
  match i with
  | .nop => none
  | .aeadEnc _ => some (l.dst, l.len.toNat + 16)
  | .aeadDec _ => some (l.dst, l.len.toNat - 16)
  | .ecdh => some (l.dst, 32)
  | .ecpub => some (l.dst, 33)
  | .pkcheck => none
  | .hkdf => some (l.dst, 64)
  | .hinit => none
  | .hupd => none
  | .hread => some (l.dst, 32)
  | .sha => some (l.dst, 32)
  | .zero => some (l.dst, l.len.toNat)

/-- The "OUTLEN on success" column of the table of 30_encoding.md R77: the length of the out region, 0 where there is
none. -/
def outLength (i : Instr) (l : Latched) : Nat := ((outRegion i l).map Prod.snd).getD 0

/-- Every region of the table of 30_encoding.md R77 is in range. -/
def State.regionsInRange (s : State) (i : Instr) : Bool :=
  (inRegions i s.latched ++ (outRegion i s.latched).toList).all fun r => s.inRange r.1 r.2

end Sys2Proof.Machine
end

