-- ==== Sys2Proof/Machine/Agents.lean ====
section
/-!
DEFINITION. The two agents: whose step is next, the host's step, and the command the engine's step runs (spec/00_scope.md
R19; 20_memory.md R63; 44_control.md R136, R139).
-/

namespace Sys2Proof.Machine

/-- Whose step is next. -/
inductive Turn where
  /-- the engine completes the command it holds -/
  | engine
  /-- the host's next event, and the events after it -/
  | host (e : HostEvent) (rest : List HostEvent)
  /-- neither agent has a step: IDLE, and no host event to come -/
  | quiet
  deriving DecidableEq, Repr

/-- Whose step is next (00_scope.md R19). IDLE: the host's. BUSY: the engine's once the drawn number of host events has
passed, and also when the host has no step, because nothing is to come or its access is held (20_memory.md R57; log
entry 2). -/
def State.turn (s : State) : Turn :=
  match s.phase, s.pending with
  | .idle, [] => .quiet
  | .idle, e :: rest => .host e rest
  | .busy, [] => .engine
  | .busy, e :: rest => if s.wait = 0 then .engine else if s.held e then .engine else .host e rest

/-- The host's step (20_memory.md R54, R63), or a power-on reset from outside (70_reset_and_hazards.md R164). -/
def State.hostStep (s : State) (e : HostEvent) (rest : List HostEvent) : State :=
  match e with
  | .access a => State.perform { s with pending := rest, wait := s.wait - 1 } a
  | .powerOn => State.powerOnReset { s with pending := rest }

/-- The command the engine's step runs: `decode(L)` (44_control.md R139; 30_encoding.md R78). -/
def State.fetch (s : State) : Except Reject Instr := decodeFields s.latched.commandWord

/-- The state with the bits `w` latched as the running command's word, the engine about to complete it. -/
def State.holdWord (s : State) (w : Word) : State :=
  { s with
    phase := .busy
    wait := 0
    latched :=
      { s.latched with op := (splitWord w).op, adh := (splitWord w).adh, rsv := (splitWord w).rsv } }

end Sys2Proof.Machine
end

