-- ==== Sys2Proof/Machine/ChaCha20.lean ====
section
/-!
DEFINITION. ChaCha20 (spec/40_aead.md R85 to R88).
-/

namespace Sys2Proof.Machine

/-- The sixteen words of a working state (40_aead.md R85). -/
abbrev ChaChaState := Vector Word 16

/-- The quarter round `QR(a, b, c, d)` (40_aead.md R85). -/
def quarterRound (w : ChaChaState) (a b c d : Fin 16) : ChaChaState :=
  let w := w.set a (w[a] + w[b])
  let w := w.set d (rotl32 (w[d] ^^^ w[a]) 16)
  let w := w.set c (w[c] + w[d])
  let w := w.set b (rotl32 (w[b] ^^^ w[c]) 12)
  let w := w.set a (w[a] + w[b])
  let w := w.set d (rotl32 (w[d] ^^^ w[a]) 8)
  let w := w.set c (w[c] + w[d])
  w.set b (rotl32 (w[b] ^^^ w[c]) 7)

/-- The input state for key `k`, block counter `j` and nonce `nc` (40_aead.md R86). -/
def chachaInput (k : Bytes) (j : Nat) (nc : Bytes) : ChaChaState :=
  #v[0x61707865, 0x3320646E, 0x79622D32, 0x6B206574,
    leWord k 0, leWord k 1, leWord k 2, leWord k 3, leWord k 4, leWord k 5, leWord k 6, leWord k 7,
    BitVec.ofNat 32 j, leWord nc 0, leWord nc 1, leWord nc 2]

/-- One double round: a column round, then a diagonal round (40_aead.md R87). -/
def doubleRound (w : ChaChaState) : ChaChaState :=
  let w := quarterRound w 0 4 8 12
  let w := quarterRound w 1 5 9 13
  let w := quarterRound w 2 6 10 14
  let w := quarterRound w 3 7 11 15
  let w := quarterRound w 0 5 10 15
  let w := quarterRound w 1 6 11 12
  let w := quarterRound w 2 7 8 13
  quarterRound w 3 4 9 14

/-- `n` double rounds. -/
def doubleRounds : Nat → ChaChaState → ChaChaState
  | 0, w => w
  | n + 1, w => doubleRounds n (doubleRound w)

/-- The block function `chacha20_block(k, j, nc)`, 64 bytes (40_aead.md R87). -/
def chachaBlock (k : Bytes) (j : Nat) (nc : Bytes) : Bytes :=
  let s := chachaInput k j nc
  let w := doubleRounds 10 s
  (List.zipWith (fun x y => x + y) w.toList s.toList).flatMap fun x => leBytes 4 x.toNat

/-- `chacha20_xor(k, j0, nc, m)`: block `i` of the message XORed with the first bytes of keystream block `j0 + i`
(40_aead.md R88). -/
def chachaXor (k : Bytes) (j0 : Nat) (nc m : Bytes) : Bytes :=
  (List.range ((m.length + 63) / 64)).flatMap fun i => xorBytes (blockAt 64 m i) (chachaBlock k (j0 + i) nc)

end Sys2Proof.Machine
end

