-- ==== Sys2Proof/Machine/Poly1305.lean ====
section
/-!
DEFINITION. Poly1305 (spec/40_aead.md R90).
-/

namespace Sys2Proof.Machine

/-- The prime `P = 2^130 - 5` (40_aead.md R90). -/
def polyPrime : Nat := 2 ^ 130 - 5

/-- The clamped multiplier `r` (40_aead.md R90). -/
def polyR (otk : Bytes) : Nat := leInt (otk.take 16) &&& 0x0FFFFFFC0FFFFFFC0FFFFFFC0FFFFFFF

/-- The final summand `s` (40_aead.md R90). -/
def polyS (otk : Bytes) : Nat := leInt ((otk.drop 16).take 16)

/-- One block's step `acc = ((acc + n) * r) mod P` with `n = le_int(c ++ 0x01)` (40_aead.md R90). -/
def polyStep (r acc : Nat) (c : Bytes) : Nat := ((acc + leInt (c ++ [0x01])) * r) % polyPrime

/-- `poly1305(otk, m)`: the 16-byte tag (40_aead.md R90). -/
def poly1305 (otk m : Bytes) : Bytes :=
  let acc := (blocks 16 m).foldl (polyStep (polyR otk)) 0
  leBytes 16 ((acc + polyS otk) % 2 ^ 128)

end Sys2Proof.Machine
end

