-- ==== Sys2Proof/Machine/AeadUnit.lean ====
section
/-!
DEFINITION. The AEAD unit: the ChaCha20-Poly1305 construction and the commands AEAD_ENC and AEAD_DEC (spec/40_aead.md
R91 to R98).
-/

namespace Sys2Proof.Machine

/-- `nonce(ctr)`: 4 zero bytes, then the 64-bit counter in little-endian order (40_aead.md R91). -/
def nonce (ctr : BitVec 64) : Bytes := zeros 4 ++ leBytes 8 ctr.toNat

/-- The Poly1305 one-time key: the first 32 bytes of ChaCha20 block 0 (40_aead.md R92). -/
def oneTimeKey (k nc : Bytes) : Bytes := (chachaBlock k 0 nc).take 32

/-- `pad16(x)`: the fewest zero bytes that bring `len(x)` to a multiple of 16 (40_aead.md R93). -/
def pad16 (x : Bytes) : Bytes := zeros ((16 - x.length % 16) % 16)

/-- `mac_data(ad, ct)` (40_aead.md R93). -/
def macData (ad ct : Bytes) : Bytes :=
  ad ++ pad16 ad ++ ct ++ pad16 ct ++ leBytes 8 ad.length ++ leBytes 8 ct.length

/-- `aead_tag(k, nc, ad, ct)` (40_aead.md R93). -/
def aeadTag (k nc ad ct : Bytes) : Bytes := poly1305 (oneTimeKey k nc) (macData ad ct)

/-- The AEAD output `ct ++ aead_tag(k, nc, ad, ct)` of plaintext `pt` (40_aead.md R94). -/
def aeadSeal (k nc ad pt : Bytes) : Bytes :=
  let ct := chachaXor k 1 nc pt
  ct ++ aeadTag k nc ad ct

/-- The plaintext of `ciphertext ++ tag`, if all 16 bytes of the tag verify (40_aead.md R95, R97). -/
def aeadOpen (k nc ad c : Bytes) : Option Bytes :=
  let ct := c.take (c.length - 16)
  let t := c.drop (c.length - 16)
  if t = aeadTag k nc ad ct then some (chachaXor k 1 nc ct) else none

/-- AEAD_ENC (40_aead.md R96). -/
def execAeadEnc (a : AdSource) (s : State) : Host.Outcome State Fault Refusal :=
  .next <|
    if s.inRange s.latched.key 32 && s.inRange s.latched.src s.latched.len.toNat && s.adInRange a
        && s.inRange s.latched.dst (s.latched.len.toNat + 16) then
      let k := s.memRead s.latched.key 32
      let pt := s.memRead s.latched.src s.latched.len.toNat
      (s.memWrite s.latched.dst (aeadSeal k (nonce s.latched.ctr) (s.adBytes a) pt)).complete (s.latched.len.toNat + 16)
    else s.raise .bounds

/-- AEAD_DEC (40_aead.md R97): MALFORMED before BOUNDS before AUTH_FAIL (60_exceptions.md R149); no plaintext is released
unless the tag verifies (R98). -/
def execAeadDec (a : AdSource) (s : State) : Host.Outcome State Fault Refusal :=
  .next <|
    if s.latched.len.toNat < 16 then s.raise .malformed
    else if s.inRange s.latched.key 32 && s.inRange s.latched.src s.latched.len.toNat && s.adInRange a
        && s.inRange s.latched.dst (s.latched.len.toNat - 16) then
      let k := s.memRead s.latched.key 32
      let c := s.memRead s.latched.src s.latched.len.toNat
      match aeadOpen k (nonce s.latched.ctr) (s.adBytes a) c with
      | some pt => (s.memWrite s.latched.dst pt).complete (s.latched.len.toNat - 16)
      | none => s.raise .authFail
    else s.raise .bounds

end Sys2Proof.Machine
end

