-- ==== Sys2Proof/Machine/ControlUnit.lean ====
section
/-!
DEFINITION. The control commands NOP and ZERO (spec/44_control.md R143, R144).
-/

namespace Sys2Proof.Machine

/-- NOP (44_control.md R143). -/
def execNop (s : State) : Host.Outcome State Fault Refusal := .next (s.complete 0)

/-- ZERO (44_control.md R144). -/
def execZero (s : State) : Host.Outcome State Fault Refusal :=
  .next <|
    if s.inRange s.latched.dst s.latched.len.toNat then
      (s.memWrite s.latched.dst (zeros s.latched.len.toNat)).complete s.latched.len.toNat
    else s.raise .bounds

end Sys2Proof.Machine
end

