-- ==== Sys2Proof/Machine/Secp256k1.lean ====
section
/-!
DEFINITION. secp256k1: field arithmetic, the group law, scalar multiplication and the point encoding (spec/41_ecdh.md
R102 to R108).
-/

namespace Sys2Proof.Machine

/-- The field prime `p` (41_ecdh.md R102). -/
def secpP : Nat := 0xFFFFFFFFFFFFFFFFFFFFFFFFFFFFFFFFFFFFFFFFFFFFFFFFFFFFFFFEFFFFFC2F

/-- The group order `n` (41_ecdh.md R102). -/
def secpN : Nat := 0xFFFFFFFFFFFFFFFFFFFFFFFFFFFFFFFEBAAEDCE6AF48A03BBFD25E8CD0364141

/-- `Gx` (41_ecdh.md R102). -/
def secpGx : Nat := 0x79BE667EF9DCBBAC55A06295CE870B07029BFCDB2DCE28D959F2815B16F81798

/-- `Gy` (41_ecdh.md R102). -/
def secpGy : Nat := 0x483ADA7726A3C4655DA4FBFC0E1108A8FD17B448A68554199C47D08FFB10D4B8

/-- `b^e mod m` for an exponent of at most `bits` bits, by squaring. -/
def powMod (m : Nat) : (bits b e : Nat) → Nat
  | 0, _, _ => 1 % m
  | bits + 1, b, e =>
    if e % 2 = 1 then b * powMod m bits (b * b % m) (e / 2) % m else powMod m bits (b * b % m) (e / 2)

/-- `(a - b) mod p` for field elements (41_ecdh.md R103). -/
def fieldSub (a b : Nat) : Nat := (a + (secpP - b % secpP)) % secpP

/-- `inv_p(a)`, the multiplicative inverse modulo the prime `p` (00_scope.md R13; 41_ecdh.md R103), as `a^(p-2) mod p`
(DEDUCED, log entry 10). -/
def fieldInv (a : Nat) : Nat := powMod secpP 256 (a % secpP) (secpP - 2)

/-- A point of the curve group: `O`, or an affine point (41_ecdh.md R104). -/
inductive Point where
  | infinity
  | affine (x y : Nat)
  deriving DecidableEq, Repr

/-- The base point G (41_ecdh.md R102). -/
def secpG : Point := .affine secpGx secpGy

/-- The set that the group law is on: the affine points with `y^2 = x^3 + 7 (mod p)`, coordinates in `[0, p)`, together
with `O` (41_ecdh.md R103, R104). -/
def onCurve : Point → Bool
  | .infinity => true
  | .affine x y => decide (x < secpP) && decide (y < secpP) && y ^ 2 % secpP == (x ^ 3 + 7) % secpP

/-- The third point of the chord or tangent of slope `lam` through `(x1, y1)` and a point of abscissa `x2`, reflected
(41_ecdh.md R104). -/
def pointFromSlope (lam x1 y1 x2 : Nat) : Point :=
  let x3 := fieldSub (lam * lam) (x1 + x2)
  .affine x3 (fieldSub (lam * fieldSub x1 x3) y1)

/-- The group law `add` (41_ecdh.md R104). -/
def pointAdd (p q : Point) : Point :=
  match p, q with
  | .infinity, q => q
  | .affine x y, .infinity => .affine x y
  | .affine x1 y1, .affine x2 y2 =>
    if x1 = x2 then
      if (y1 + y2) % secpP = 0 then .infinity
      else pointFromSlope (3 * x1 ^ 2 * fieldInv (2 * y1) % secpP) x1 y1 x2
    else pointFromSlope (fieldSub y2 y1 * fieldInv (fieldSub x2 x1) % secpP) x1 y1 x2

/-- `acc + k * p` for a scalar of at most `bits` bits, by double and add. -/
def pointMulAdd : (bits k : Nat) → (acc p : Point) → Point
  | 0, _, acc, _ => acc
  | bits + 1, k, acc, p =>
    if k = 0 then acc
    else pointMulAdd bits (k / 2) (if k % 2 = 1 then pointAdd acc p else acc) (pointAdd p p)

/-- `k * P` (41_ecdh.md R105): any algorithm that gives the rule's value conforms (log entry 10). -/
def pointMul (k : Nat) (p : Point) : Point := pointMulAdd (Nat.log2 k + 1) k .infinity p

/-- A scalar is valid when `1 <= be_int(sk) <= n - 1`; it is not reduced (41_ecdh.md R106). -/
def validScalar (sk : Bytes) : Bool := decide (1 ≤ beInt sk) && decide (beInt sk ≤ secpN - 1)

/-- `compress(P)`: 33 bytes (41_ecdh.md R107). `O` has no compressed encoding, and no command needs one (R110): there a
free value stands (log entry 9). -/
def compress : Point → Bytes
  | .infinity => Config.infinityEncoding.toList
  | .affine x y => BitVec.ofNat 8 (0x02 + y % 2) :: beBytes 32 x

/-- `decompress(b)` of a 33-byte string (41_ecdh.md R108). -/
def decompress (b : Bytes) : Option Point :=
  let b0 := b.headD 0
  let x := beInt (b.drop 1)
  let t := (x ^ 3 + 7) % secpP
  let y := powMod secpP 256 t ((secpP + 1) / 4)
  if b0 ≠ 0x02 ∧ b0 ≠ 0x03 then none
  else if secpP ≤ x then none
  else if y ^ 2 % secpP ≠ t then none
  else if y % 2 ≠ b0.toNat - 0x02 then some (.affine x (secpP - y))
  else some (.affine x y)

end Sys2Proof.Machine
end

