-- ==== Sys2Proof/Machine/Sha256.lean ====
section
/-!
DEFINITION. SHA-256 (spec/43_transcript.md R123 to R129).
-/

namespace Sys2Proof.Machine

/-- The 64 constant words `K[0..63]` (43_transcript.md R123). -/
def sha256K : List Word :=
  [0x428a2f98, 0x71374491, 0xb5c0fbcf, 0xe9b5dba5, 0x3956c25b, 0x59f111f1, 0x923f82a4, 0xab1c5ed5] ++
  [0xd807aa98, 0x12835b01, 0x243185be, 0x550c7dc3, 0x72be5d74, 0x80deb1fe, 0x9bdc06a7, 0xc19bf174] ++
  [0xe49b69c1, 0xefbe4786, 0x0fc19dc6, 0x240ca1cc, 0x2de92c6f, 0x4a7484aa, 0x5cb0a9dc, 0x76f988da] ++
  [0x983e5152, 0xa831c66d, 0xb00327c8, 0xbf597fc7, 0xc6e00bf3, 0xd5a79147, 0x06ca6351, 0x14292967] ++
  [0x27b70a85, 0x2e1b2138, 0x4d2c6dfc, 0x53380d13, 0x650a7354, 0x766a0abb, 0x81c2c92e, 0x92722c85] ++
  [0xa2bfe8a1, 0xa81a664b, 0xc24b8b70, 0xc76c51a3, 0xd192e819, 0xd6990624, 0xf40e3585, 0x106aa070] ++
  [0x19a4c116, 0x1e376c08, 0x2748774c, 0x34b0bcb5, 0x391c0cb3, 0x4ed8aa4a, 0x5b9cca4f, 0x682e6ff3] ++
  [0x748f82ee, 0x78a5636f, 0x84c87814, 0x8cc70208, 0x90befffa, 0xa4506ceb, 0xbef9a3f7, 0xc67178f2]

/-- The hash state: the eight words `S0 .. S7`, named as the working variables of 43_transcript.md R128. -/
structure HashState where
  a : Word
  b : Word
  c : Word
  d : Word
  e : Word
  f : Word
  g : Word
  h : Word
  deriving DecidableEq, Repr

/-- The initial hash value `IV` (43_transcript.md R124). -/
def sha256IV : HashState :=
  { a := 0x6a09e667, b := 0xbb67ae85, c := 0x3c6ef372, d := 0xa54ff53a
    e := 0x510e527f, f := 0x9b05688c, g := 0x1f83d9ab, h := 0x5be0cd19 }

/-- `Ch` (43_transcript.md R125). -/
def shaCh (e f g : Word) : Word := (e &&& f) ^^^ (~~~e &&& g)

/-- `Maj` (43_transcript.md R125). -/
def shaMaj (a b c : Word) : Word := (a &&& b) ^^^ (a &&& c) ^^^ (b &&& c)

/-- The function `S0` (43_transcript.md R125). -/
def shaBigSigma0 (a : Word) : Word := rotr32 a 2 ^^^ rotr32 a 13 ^^^ rotr32 a 22

/-- The function `S1` (43_transcript.md R125). -/
def shaBigSigma1 (e : Word) : Word := rotr32 e 6 ^^^ rotr32 e 11 ^^^ rotr32 e 25

/-- The function `s0` (43_transcript.md R125). -/
def shaSmallSigma0 (x : Word) : Word := rotr32 x 7 ^^^ rotr32 x 18 ^^^ (x >>> 3)

/-- The function `s1` (43_transcript.md R125). -/
def shaSmallSigma1 (x : Word) : Word := rotr32 x 17 ^^^ rotr32 x 19 ^^^ (x >>> 10)

/-- `pad(m) = m ++ 0x80 ++ 0^z ++ be64(8 * len(m))` with `z = (55 - len(m)) mod 64` (43_transcript.md R126). -/
def shaPad (m : Bytes) : Bytes :=
  m ++ [0x80] ++ zeros ((55 + 64 - m.length % 64) % 64) ++ beBytes 8 (8 * m.length)

/-- `W[0..15+n]`: the first 16 words of the schedule are the block's, every later one follows from four before it
(43_transcript.md R127). -/
def shaSchedule (block : Bytes) : Nat → List Word
  | 0 => (List.range 16).map (beWord block)
  | n + 1 =>
    let w := shaSchedule block n
    let t := 16 + n
    w ++ [shaSmallSigma1 (w.getD (t - 2) 0) + w.getD (t - 7) 0 + shaSmallSigma0 (w.getD (t - 15) 0) + w.getD (t - 16) 0]

/-- One round `t` of the compression, with `kw = (K[t], W[t])` (43_transcript.md R128). -/
def shaRound (s : HashState) (kw : Word × Word) : HashState :=
  let t1 := s.h + shaBigSigma1 s.e + shaCh s.e s.f s.g + kw.1 + kw.2
  let t2 := shaBigSigma0 s.a + shaMaj s.a s.b s.c
  { a := t1 + t2, b := s.a, c := s.b, d := s.c, e := s.d + t1, f := s.e, g := s.f, h := s.g }

/-- The compression of one 64-byte block into the hash state (43_transcript.md R128). -/
def shaCompress (s : HashState) (block : Bytes) : HashState :=
  let r := (sha256K.zip (shaSchedule block 48)).foldl shaRound s
  { a := s.a + r.a, b := s.b + r.b, c := s.c + r.c, d := s.d + r.d
    e := s.e + r.e, f := s.f + r.f, g := s.g + r.g, h := s.h + r.h }

/-- The digest `be32(S0) ++ .. ++ be32(S7)` (43_transcript.md R129). -/
def HashState.digest (s : HashState) : Bytes :=
  beBytes 4 s.a.toNat ++ beBytes 4 s.b.toNat ++ beBytes 4 s.c.toNat ++ beBytes 4 s.d.toNat
    ++ beBytes 4 s.e.toNat ++ beBytes 4 s.f.toNat ++ beBytes 4 s.g.toNat ++ beBytes 4 s.h.toNat

/-- A digest is 32 bytes. -/
theorem HashState.digest_length (s : HashState) : s.digest.length = 32 := by
  simp [HashState.digest, beBytes, leBytes]

/-- `SHA256(m)` (43_transcript.md R129). -/
def sha256 (m : Bytes) : Vector Byte 32 :=
  let s := (blocks 64 (shaPad m)).foldl shaCompress sha256IV
  ⟨s.digest.toArray, by simp [HashState.digest_length]⟩

end Sys2Proof.Machine
end

