-- ==== Sys2Proof/Machine/EcdhUnit.lean ====
section
/-!
DEFINITION. The ECDH unit: the shared secret and the commands ECDH, ECPUB and PKCHECK (spec/41_ecdh.md R111 to R115).
-/

namespace Sys2Proof.Machine

/-- `ecdh(P, s) = SHA256(compress(s * P))` (41_ecdh.md R111). -/
def sharedSecret (p : Point) (k : Nat) : Vector Byte 32 := sha256 (compress (pointMul k p))

/-- ECDH (41_ecdh.md R113): the public key is checked before the scalar (60_exceptions.md R149). -/
def execEcdh (s : State) : Host.Outcome State Fault Refusal :=
  .next <|
    if s.inRange s.latched.src 33 && s.inRange s.latched.key 32 && s.inRange s.latched.dst 32 then
      match decompress (s.memRead s.latched.src 33) with
      | none => s.raise .invalidPubkey
      | some p =>
        let sk := s.memRead s.latched.key 32
        if validScalar sk then (s.memWrite s.latched.dst (sharedSecret p (beInt sk)).toList).complete 32
        else s.raise .invalidSeckey
    else s.raise .bounds

/-- ECPUB (41_ecdh.md R114). -/
def execEcpub (s : State) : Host.Outcome State Fault Refusal :=
  .next <|
    if s.inRange s.latched.key 32 && s.inRange s.latched.dst 33 then
      let sk := s.memRead s.latched.key 32
      if validScalar sk then (s.memWrite s.latched.dst (compress (pointMul (beInt sk) secpG))).complete 33
      else s.raise .invalidSeckey
    else s.raise .bounds

/-- PKCHECK (41_ecdh.md R115). -/
def execPkcheck (s : State) : Host.Outcome State Fault Refusal :=
  .next <|
    if s.inRange s.latched.src 33 then
      match decompress (s.memRead s.latched.src 33) with
      | none => s.raise .invalidPubkey
      | some _ => s.complete 0
    else s.raise .bounds

end Sys2Proof.Machine
end

