-- ==== Sys2Proof/Machine/HkdfUnit.lean ====
section
/-!
DEFINITION. The HKDF unit: HMAC-SHA-256, HKDF with the empty info field, and the command HKDF (spec/42_hkdf.md R117 to
R121).
-/

namespace Sys2Proof.Machine

/-- `K0`: the key, hashed if it is longer than a block, filled up with zeros to 64 bytes (42_hkdf.md R117). -/
def hmacK0 (key : Bytes) : Bytes :=
  let k := if 64 < key.length then (sha256 key).toList else key
  k ++ zeros (64 - k.length)

/-- `K0 xor` 64 copies of one byte: `ipad` and `opad` (42_hkdf.md R117). -/
def hmacPad (key : Bytes) (b : Byte) : Bytes := xorBytes (hmacK0 key) (List.replicate 64 b)

/-- `HMAC(key, data)` (42_hkdf.md R117). -/
def hmac (key data : Bytes) : Bytes :=
  (sha256 (hmacPad key 0x5C ++ (sha256 (hmacPad key 0x36 ++ data)).toList)).toList

/-- `hkdf(salt, ikm)`: Extract (42_hkdf.md R118), then Expand with the empty info field to `T1 ++ T2` (R119, R120). -/
def hkdf (salt ikm : Bytes) : Bytes :=
  let prk := hmac salt ikm
  let t1 := hmac prk [0x01]
  let t2 := hmac prk (t1 ++ [0x02])
  t1 ++ t2

/-- HKDF (42_hkdf.md R121). -/
def execHkdf (s : State) : Host.Outcome State Fault Refusal :=
  .next <|
    if s.inRange s.latched.key 32 && s.inRange s.latched.src s.latched.len.toNat && s.inRange s.latched.dst 64 then
      let salt := s.memRead s.latched.key 32
      let ikm := s.memRead s.latched.src s.latched.len.toNat
      (s.memWrite s.latched.dst (hkdf salt ikm)).complete 64
    else s.raise .bounds

end Sys2Proof.Machine
end

