-- ==== Sys2Proof/Machine/TranscriptUnit.lean ====
section
/-!
DEFINITION. The SHA-256 unit and the transcript accumulator: the commands HINIT, HUPD, HREAD and SHA
(spec/43_transcript.md R130 to R133).
-/

namespace Sys2Proof.Machine

/-- The transcript after an update with `d`: the first update hashes the data alone (43_transcript.md R132; 90_conflicts.md
C1). -/
def State.nextTranscript (s : State) (d : Bytes) : Vector Byte 32 :=
  if s.hEmpty then sha256 d else sha256 (s.h.toList ++ d)

/-- HINIT (43_transcript.md R131). -/
def execHinit (s : State) : Host.Outcome State Fault Refusal :=
  .next <| State.complete { s with h := Vector.replicate 32 0, hEmpty := true } 0

/-- HUPD (43_transcript.md R132). -/
def execHupd (s : State) : Host.Outcome State Fault Refusal :=
  .next <|
    if s.inRange s.latched.src s.latched.len.toNat then
      let d := s.memRead s.latched.src s.latched.len.toNat
      State.complete { s with h := s.nextTranscript d, hEmpty := false } 0
    else s.raise .bounds

/-- HREAD (43_transcript.md R133). -/
def execHread (s : State) : Host.Outcome State Fault Refusal :=
  .next <|
    if s.inRange s.latched.dst 32 then (s.memWrite s.latched.dst s.h.toList).complete 32
    else s.raise .bounds

/-- SHA (43_transcript.md R130). -/
def execSha (s : State) : Host.Outcome State Fault Refusal :=
  .next <|
    if s.inRange s.latched.src s.latched.len.toNat && s.inRange s.latched.dst 32 then
      (s.memWrite s.latched.dst (sha256 (s.memRead s.latched.src s.latched.len.toNat)).toList).complete 32
    else s.raise .bounds

end Sys2Proof.Machine
end

