-- ==== Sys2Proof/Machine/Dispatch.lean ====
section
/-! DEFINITION. The meaning of each command, one arm per constructor of Instr (spec/30_encoding.md R76). -/

namespace Sys2Proof.Machine

/-- The engine's completion step for a decoded command (spec/44_control.md R139). -/
def exec (i : Instr) (s : State) : Host.Outcome State Fault Refusal :=
  match i with
  | .nop => Sys2Proof.Machine.execNop s
  | .aeadEnc a => Sys2Proof.Machine.execAeadEnc a s
  | .aeadDec a => Sys2Proof.Machine.execAeadDec a s
  | .ecdh => Sys2Proof.Machine.execEcdh s
  | .ecpub => Sys2Proof.Machine.execEcpub s
  | .pkcheck => Sys2Proof.Machine.execPkcheck s
  | .hkdf => Sys2Proof.Machine.execHkdf s
  | .hinit => Sys2Proof.Machine.execHinit s
  | .hupd => Sys2Proof.Machine.execHupd s
  | .hread => Sys2Proof.Machine.execHread s
  | .sha => Sys2Proof.Machine.execSha s
  | .zero => Sys2Proof.Machine.execZero s

end Sys2Proof.Machine
end

