-- ==== Sys2Proof/Machine/Step.lean ====
section
/-!
DEFINITION. One step of the machine: a step of the host or of the engine (spec/00_scope.md R19; 20_memory.md R63).
-/

namespace Sys2Proof.Machine

/-- One step: the engine completes the latched command (44_control.md R139), an illegal word with ILLEGAL (30_encoding.md
R79); or the host performs its next transaction; or neither agent has a step and the state stays. -/
def step (s : State) : Host.Outcome State Fault Refusal :=
  match s.turn with
  | .engine =>
    match s.fetch with
    | .ok i => exec i s
    | .error _ => .next (s.raise .illegal)
  | .host e rest => .next (s.hostStep e rest)
  | .quiet => .next s

/-- `s` with the command word of bits `w` latched as START latches CMD, the engine's completion step next (log entry 1). -/
def State.withFetchWord (s : State) (nbits w : Nat) : State := s.holdWord (BitVec.ofNat 32 (w % 2 ^ nbits))

end Sys2Proof.Machine
end

