-- ==== Sys2Proof/Safety.lean ====
section
/-!
DEFINITION. What counts as a safe state and a safe step, in the terms the statements use.
-/

namespace Sys2Proof.Machine

/-- DMEM keeps its canonical form, inside its `DMEM_BYTES` bytes (spec/10_state.md R39). -/
def State.MemoryCanonical (s : State) : Prop := s.dmem.wf s.dmemsz.toNat = true

/-- DONE and ERR are never both 1 (10_state.md R26). -/
def State.FlagsExclusive (s : State) : Prop := ¬ (s.done = true ∧ s.err = true)

/-- ERRCODE is a code of the table of 60_exceptions.md R148, and DONE and ERR agree with it. -/
def State.ErrcodeReported (s : State) : Prop :=
  s.errcode.toNat ≤ 6 ∧ (s.done = true → s.errcode = 0) ∧ (s.err = true → s.errcode ≠ 0)

/-- While BUSY = 1 the record of the last command is cleared, as START left it (44_control.md R137). -/
def State.BusyRecordClear (s : State) : Prop :=
  s.phase = .busy → s.done = false ∧ s.err = false ∧ s.errcode = 0 ∧ s.outlen = 0

/-- While `H_EMPTY` = 1, `H` = `0^32` (10_state.md R35). -/
def State.EmptyTranscriptZero (s : State) : Prop := s.hEmpty = true → s.h = Vector.replicate 32 0

/-- OUTLEN is a number of DMEM bytes (10_state.md R37), and DMEMSZ a legal `DMEM_BYTES` (00_scope.md R8). -/
def State.SizesLegal (s : State) : Prop :=
  Config.legalDmemBytes s.dmemsz = true ∧ s.outlen.toNat ≤ s.dmemsz.toNat

/-- The invariant of the block: what every step keeps, from every state. -/
def State.Inv (s : State) : Prop :=
  s.MemoryCanonical ∧ s.FlagsExclusive ∧ s.ErrcodeReported ∧ s.BusyRecordClear ∧ s.EmptyTranscriptZero ∧ s.SizesLegal

/-- Two states hold the same bytes at every DMEM address that `outside` picks. -/
def State.SameDmemWhere (s t : State) (outside : Nat → Prop) : Prop :=
  ∀ a, outside a → t.dmem.read a = s.dmem.read a

/-- Address `a` lies outside the `n` bytes from `b`. -/
def OutsideRegion (b n a : Nat) : Prop := a < b ∨ b + n ≤ a

/-- Every register a command never writes is as before: CTRL, CMD, the operand registers (10_state.md R23), OVR and
DMEMSZ. -/
def State.SameRegisters (s t : State) : Prop :=
  t.irqEn = s.irqEn ∧ t.ovr = s.ovr ∧ t.cmd = s.cmd ∧ t.src = s.src ∧ t.len = s.len ∧ t.key = s.key ∧ t.ad = s.ad
    ∧ t.adlen = s.adlen ∧ t.dst = s.dst ∧ t.ctrLo = s.ctrLo ∧ t.ctrHi = s.ctrHi ∧ t.dmemsz = s.dmemsz

/-- The registers above are as before, and so are the latched record and the model's record of the host. That a completion
leaves the latched record is DESIGN CHOICE (log entry 4): the spec leaves its value while IDLE open (10_state.md R38). -/
def State.SameControls (s t : State) : Prop :=
  s.SameRegisters t ∧ t.latched = s.latched ∧ t.starts = s.starts ∧ t.powerOns = s.powerOns ∧ t.pending = s.pending
    ∧ t.replies = s.replies

/-- The transcript is as before. -/
def State.SameTranscript (s t : State) : Prop := t.h = s.h ∧ t.hEmpty = s.hEmpty

/-- STATUS and OUTLEN record a command that completed with success and wrote `n` bytes (44_control.md R140). -/
def State.RecordsSuccess (s t : State) (n : Nat) : Prop :=
  t.done = true ∧ t.err = false ∧ t.errcode = 0 ∧ t.lastop = s.latched.op ∧ t.outlen = BitVec.ofNat 32 n
    ∧ t.phase = .idle

/-- STATUS and OUTLEN record a command that completed with error `e` (60_exceptions.md R150), under the number that R148
gives the error. -/
def State.RecordsError (s t : State) (e : ErrCode) : Prop :=
  t.done = false ∧ t.err = true
    ∧ t.errcode =
      (match e with
        | .illegal => 0x01
        | .bounds => 0x02
        | .malformed => 0x03
        | .authFail => 0x04
        | .invalidPubkey => 0x05
        | .invalidSeckey => 0x06)
    ∧ t.lastop = s.latched.op ∧ t.outlen = 0 ∧ t.phase = .idle

/-- Every DMEM byte is as before. -/
def State.SameDmem (s t : State) : Prop := s.SameDmemWhere t fun _ => True

/-- The DMEM region `(a, n)` is in range: `a + n <= DMEM_BYTES` (20_memory.md R60). -/
def State.Fits (s : State) (a : Word) (n : Nat) : Prop := a.toNat + n ≤ s.dmemsz.toNat

/-- Command `i` completes with success: it stores the bytes `v` at DST, reports their number, and changes nothing else. -/
def State.Stores (s : State) (i : Instr) (v : Bytes) : Prop :=
  ∃ t, exec i s = .next t ∧ s.RecordsSuccess t v.length ∧ s.SameControls t ∧ s.SameTranscript t
    ∧ t.dmem.readBytes s.latched.dst.toNat v.length = v
    ∧ s.SameDmemWhere t (OutsideRegion s.latched.dst.toNat v.length)

/-- Command `i` completes with error `e` and changes nothing else (60_exceptions.md R150). -/
def State.Fails (s : State) (i : Instr) (e : ErrCode) : Prop :=
  ∃ t, exec i s = .next t ∧ s.RecordsError t e ∧ s.SameControls t ∧ s.SameTranscript t ∧ s.SameDmem t

/-- The AEAD tag written out from 40_aead.md R92 and R93, apart from the definitions that the commands use: Poly1305 under
the first 32 bytes of ChaCha20 block 0, over the associated data, its padding, the ciphertext, its padding and the two
lengths. -/
def tagWrittenOut (k nc ad ct : Bytes) : Bytes :=
  let padding (x : Bytes) : Bytes := List.replicate ((16 - x.length % 16) % 16) 0x00
  poly1305 ((chachaBlock k 0 nc).take 32)
    (ad ++ padding ad ++ ct ++ padding ct ++ leBytes 8 ad.length ++ leBytes 8 ct.length)

/-- HMAC-SHA-256 written out from 42_hkdf.md R117, apart from the definitions that the command uses: the key, hashed if it
is longer than 64 bytes, is filled up with zeros to 64 bytes. -/
def hmacWrittenOut (key data : Bytes) : Bytes :=
  let short := if 64 < key.length then (sha256 key).toList else key
  let k0 := short ++ List.replicate (64 - short.length) 0x00
  (sha256 (k0.map (· ^^^ 0x5C) ++ (sha256 (k0.map (· ^^^ 0x36) ++ data)).toList)).toList

/-- The order of 60_exceptions.md R149 for a legal command word: the error that command `i` reports in state `s`, none
where it succeeds. -/
def State.firstError (s : State) (i : Instr) : Option ErrCode :=
  let sk := s.memRead s.latched.key 32
  let pk := s.memRead s.latched.src 33
  let isDec : Bool := match i with
    | .aeadDec _ => true
    | _ => false
  let opened : Option Bytes := match i with
    | .aeadDec a =>
      aeadOpen sk (nonce s.latched.ctr) (s.adBytes a) (s.memRead s.latched.src s.latched.len.toNat)
    | _ => none
  if isDec ∧ s.latched.len.toNat < 16 then some .malformed
  else if s.regionsInRange i = false then some .bounds
  else if (i = .ecdh ∨ i = .pkcheck) ∧ decompress pk = none then some .invalidPubkey
  else if (i = .ecdh ∨ i = .ecpub) ∧ ¬ (1 ≤ beInt sk ∧ beInt sk ≤ secpN - 1) then some .invalidSeckey
  else if isDec ∧ opened = none then some .authFail
  else none

/-- The next step is the host's 32-bit write of `v` at `offset` of the window. -/
def State.NextIsWrite (s : State) (offset : BitVec 21) (v : Word) : Prop :=
  ∃ rest, s.turn = .host (.access (.write .word offset v)) rest

/-- The next step is a write to CTRL with START = 1 and SRST = 0 (44_control.md R137, R138). -/
def State.NextIsStart (s : State) : Prop :=
  ∃ v, s.NextIsWrite 0x004 v ∧ v.getLsbD 0 = true ∧ v.getLsbD 1 = false

/-- The next step is a reset: a power-on reset, or a write to CTRL with SRST = 1 (70_reset_and_hazards.md R164, R165). -/
def State.NextIsReset (s : State) : Prop :=
  (∃ rest, s.turn = .host .powerOn rest) ∨ ∃ v, s.NextIsWrite 0x004 v ∧ v.getLsbD 1 = true

/-- The next step is the engine's: the completion of the command it holds (44_control.md R139). -/
def State.NextIsCompletion (s : State) : Prop :=
  s.phase = .busy ∧ (s.wait = 0 ∨ ∀ e, s.pending.head? = some e → s.held e = true)

/-- Every event to come is a host read of the register page: the host polls. -/
def State.HostOnlyPolls (s : State) : Prop :=
  ∀ e ∈ s.pending, ∃ w o, e = .access (.read w o) ∧ o.toNat < 0x1000

/-- The reset values of 10_state.md R43 that both resets give: every flag 0 but H_EMPTY = 1, every register 0, `H` =
`0^32`, IDLE, and `irq` = 0. -/
def State.AtResetValues (t : State) : Prop :=
  t.irqEn = false ∧ t.done = false ∧ t.err = false ∧ t.ovr = false ∧ t.errcode = 0 ∧ t.lastop = 0 ∧ t.cmd = 0
    ∧ t.src = 0 ∧ t.len = 0 ∧ t.key = 0 ∧ t.ad = 0 ∧ t.adlen = 0 ∧ t.dst = 0 ∧ t.ctrLo = 0 ∧ t.ctrHi = 0
    ∧ t.outlen = 0 ∧ t.h = Vector.replicate 32 0 ∧ t.hEmpty = true ∧ t.phase = .idle ∧ t.irq = false

end Sys2Proof.Machine
end

