-- ==== Sys2Proof/Certificates/Slice0/Obligations.lean ====
section
/-!
DEFINITION. The statements for the provers: what the command word decodes to, what each command does, what the host's
accesses do, and what holds of every step of the machine.
-/

open Sys2Proof Sys2Proof.Machine

/-! ### The command word (spec/30_encoding.md) -/

/-- R76, R78, R80: a 32-bit word decodes to a command exactly when it is that command's word. -/
def Obligations.DecodeInvertsEncode : Prop := ∀ (w : Word) (i : Instr), decode w = .ok i ↔ w = encode i

/-- R79, R28: which words are illegal; executing one raises ILLEGAL, code 0x01, and changes no DMEM and no transcript; CMD
stores every word, reads it back, and is 0 (NOP) after reset. -/
def Obligations.IllegalWordsRaiseIllegal : Prop :=
  ∀ w : Word,
    ((∃ r, decode w = .error r) ↔
      w.toNat / 512 ≠ 0 ∨ 0x0C ≤ w.toNat % 256
        ∨ (w.toNat / 256 % 2 = 1 ∧ w.toNat % 256 ≠ 0x01 ∧ w.toNat % 256 ≠ 0x02))
    ∧ (∀ s : State, s.NextIsCompletion → joinWord s.latched.commandWord = w → (∃ r, decode w = .error r) →
        ∃ t, step s = .next t ∧ s.RecordsError t .illegal ∧ s.SameRegisters t ∧ s.SameTranscript t ∧ s.SameDmem t)
    ∧ (∀ s : State, s.busWrite .word 0x00C w = ({ s with cmd := w }, .ack)
      ∧ State.busRead { s with cmd := w } .word 0x00C = .data w)
    ∧ State.reset.cmd = 0

/-- R76: the fourteen legal command words, written out. -/
def Obligations.ListedWordsDecode : Prop :=
  decode 0x00000000 = .ok .nop ∧ decode 0x00000001 = .ok (.aeadEnc .region)
    ∧ decode 0x00000101 = .ok (.aeadEnc .transcript) ∧ decode 0x00000002 = .ok (.aeadDec .region)
    ∧ decode 0x00000102 = .ok (.aeadDec .transcript) ∧ decode 0x00000003 = .ok .ecdh
    ∧ decode 0x00000004 = .ok .ecpub ∧ decode 0x00000005 = .ok .pkcheck ∧ decode 0x00000006 = .ok .hkdf
    ∧ decode 0x00000007 = .ok .hinit ∧ decode 0x00000008 = .ok .hupd ∧ decode 0x00000009 = .ok .hread
    ∧ decode 0x0000000A = .ok .sha ∧ decode 0x0000000B = .ok .zero

/-- R139, and log entries 1 and 2 for whose step is next: where the engine's step is next and the latched word decodes to
`i`, the step is `exec i`. `withFetchWord` makes a command word the next one. -/
def Obligations.StepRunsLatchedCommand : Prop :=
  ∀ (s : State) (i : Instr),
    (s.NextIsCompletion → decode (joinWord s.latched.commandWord) = .ok i → step s = exec i s)
    ∧ ∀ w : Word, decode w = .ok i → step (s.withFetchWord 32 w.toNat) = exec i (s.withFetchWord 32 w.toNat)

/-! ### What each command does -/

/-- R143. -/
def Obligations.NopCompletes : Prop :=
  ∀ s : State, ∃ t, exec .nop s = .next t ∧ s.RecordsSuccess t 0 ∧ s.SameControls t ∧ s.SameTranscript t ∧ s.SameDmem t

/-- R96, with both associated-data sources of R72, and the tag of R92 and R93 written out. -/
def Obligations.AeadEncStoresCiphertextAndTag : Prop :=
  ∀ (a : AdSource) (s : State),
    s.Fits s.latched.key 32 → s.Fits s.latched.src s.latched.len.toNat →
    (a = .region → s.Fits s.latched.ad s.latched.adlen.toNat) → s.Fits s.latched.dst (s.latched.len.toNat + 16) →
    let k := s.dmem.readBytes s.latched.key.toNat 32
    let pt := s.dmem.readBytes s.latched.src.toNat s.latched.len.toNat
    let ad := match a with
      | .region => s.dmem.readBytes s.latched.ad.toNat s.latched.adlen.toNat
      | .transcript => s.h.toList
    let ct := chachaXor k 1 (nonce s.latched.ctr) pt
    let out := ct ++ tagWrittenOut k (nonce s.latched.ctr) ad ct
    out.length = s.latched.len.toNat + 16 ∧ s.Stores (.aeadEnc a) out

/-- R97, where the tag (R92, R93, written out) verifies (R95). -/
def Obligations.AeadDecStoresVerifiedPlaintext : Prop :=
  ∀ (a : AdSource) (s : State) (ct : Bytes),
    s.Fits s.latched.key 32 → s.Fits s.latched.src s.latched.len.toNat →
    (a = .region → s.Fits s.latched.ad s.latched.adlen.toNat) → s.Fits s.latched.dst (s.latched.len.toNat - 16) →
    let k := s.dmem.readBytes s.latched.key.toNat 32
    let ad := match a with
      | .region => s.dmem.readBytes s.latched.ad.toNat s.latched.adlen.toNat
      | .transcript => s.h.toList
    s.dmem.readBytes s.latched.src.toNat s.latched.len.toNat = ct ++ tagWrittenOut k (nonce s.latched.ctr) ad ct →
    ct.length + 16 = s.latched.len.toNat ∧ s.Stores (.aeadDec a) (chachaXor k 1 (nonce s.latched.ctr) ct)

/-- R95, R97, R98: one wrong tag byte is enough for AUTH_FAIL, and no byte is written. -/
def Obligations.AeadDecRejectsWrongTag : Prop :=
  ∀ (a : AdSource) (s : State) (ct tag : Bytes),
    s.Fits s.latched.key 32 → s.Fits s.latched.src s.latched.len.toNat →
    (a = .region → s.Fits s.latched.ad s.latched.adlen.toNat) → s.Fits s.latched.dst (s.latched.len.toNat - 16) →
    tag.length = 16 → s.dmem.readBytes s.latched.src.toNat s.latched.len.toNat = ct ++ tag →
    tag ≠ tagWrittenOut (s.dmem.readBytes s.latched.key.toNat 32) (nonce s.latched.ctr)
      (match a with
        | .region => s.dmem.readBytes s.latched.ad.toNat s.latched.adlen.toNat
        | .transcript => s.h.toList) ct →
    s.Fails (.aeadDec a) .authFail

/-- R97, R149: an input too short for a tag is MALFORMED, also where a region is out of range. -/
def Obligations.AeadDecRejectsShortInput : Prop :=
  ∀ (a : AdSource) (s : State), s.latched.len.toNat < 16 → s.Fails (.aeadDec a) .malformed

/-- R113. -/
def Obligations.EcdhStoresSharedSecret : Prop :=
  ∀ (s : State) (q : Point),
    s.Fits s.latched.src 33 → s.Fits s.latched.key 32 → s.Fits s.latched.dst 32 →
    decompress (s.dmem.readBytes s.latched.src.toNat 33) = some q →
    let k := beInt (s.dmem.readBytes s.latched.key.toNat 32)
    1 ≤ k → k ≤ secpN - 1 →
    s.Stores .ecdh (sha256 (compress (pointMul k q))).toList

/-- R114. -/
def Obligations.EcpubStoresPublicKey : Prop :=
  ∀ s : State, s.Fits s.latched.key 32 → s.Fits s.latched.dst 33 →
    let k := beInt (s.dmem.readBytes s.latched.key.toNat 32)
    1 ≤ k → k ≤ secpN - 1 →
    (compress (pointMul k (.affine secpGx secpGy))).length = 33
      ∧ s.Stores .ecpub (compress (pointMul k (.affine secpGx secpGy)))

/-- R115. -/
def Obligations.PkcheckAcceptsValidKey : Prop :=
  ∀ s : State, s.Fits s.latched.src 33 →
    (decompress (s.dmem.readBytes s.latched.src.toNat 33)).isSome = true →
    ∃ t, exec .pkcheck s = .next t ∧ s.RecordsSuccess t 0 ∧ s.SameControls t ∧ s.SameTranscript t ∧ s.SameDmem t

/-- R113, R115, R149: an invalid public key is reported by PKCHECK, and by ECDH whatever the scalar is. -/
def Obligations.InvalidPublicKeysAreRejected : Prop :=
  ∀ s : State, s.Fits s.latched.src 33 → decompress (s.dmem.readBytes s.latched.src.toNat 33) = none →
    s.Fails .pkcheck .invalidPubkey
      ∧ (s.Fits s.latched.key 32 → s.Fits s.latched.dst 32 → s.Fails .ecdh .invalidPubkey)

/-- R106, R113, R114: the zero scalar and every scalar from `n` on are invalid. -/
def Obligations.InvalidScalarsAreRejected : Prop :=
  ∀ s : State, s.Fits s.latched.key 32 →
    beInt (s.dmem.readBytes s.latched.key.toNat 32) = 0 ∨ secpN ≤ beInt (s.dmem.readBytes s.latched.key.toNat 32) →
    (s.Fits s.latched.dst 33 → s.Fails .ecpub .invalidSeckey)
      ∧ (s.Fits s.latched.src 33 → s.Fits s.latched.dst 32 →
          (decompress (s.dmem.readBytes s.latched.src.toNat 33)).isSome = true → s.Fails .ecdh .invalidSeckey)

/-- R121, with the HMAC of R117 written out in terms of SHA-256. -/
def Obligations.HkdfStoresBothKeys : Prop :=
  ∀ s : State, s.Fits s.latched.key 32 → s.Fits s.latched.src s.latched.len.toNat → s.Fits s.latched.dst 64 →
    let salt := s.dmem.readBytes s.latched.key.toNat 32
    let ikm := s.dmem.readBytes s.latched.src.toNat s.latched.len.toNat
    let prk := hmacWrittenOut salt ikm
    let t1 := hmacWrittenOut prk [0x01]
    let t2 := hmacWrittenOut prk (t1 ++ [0x02])
    (t1 ++ t2).length = 64 ∧ s.Stores .hkdf (t1 ++ t2)

/-- R131. -/
def Obligations.HinitRestartsTranscript : Prop :=
  ∀ s : State, ∃ t, exec .hinit s = .next t ∧ s.RecordsSuccess t 0 ∧ s.SameControls t ∧ s.SameDmem t
    ∧ t.h = Vector.replicate 32 0 ∧ t.hEmpty = true

/-- R132: the first update hashes the data alone, every later one the transcript and the data. -/
def Obligations.HupdHashesIntoTranscript : Prop :=
  ∀ s : State, s.Fits s.latched.src s.latched.len.toNat →
    let d := s.dmem.readBytes s.latched.src.toNat s.latched.len.toNat
    ∃ t, exec .hupd s = .next t ∧ s.RecordsSuccess t 0 ∧ s.SameControls t ∧ s.SameDmem t ∧ t.hEmpty = false
      ∧ (s.hEmpty = true → t.h = sha256 d) ∧ (s.hEmpty = false → t.h = sha256 (s.h.toList ++ d))

/-- R133. -/
def Obligations.HreadStoresTranscript : Prop :=
  ∀ s : State, s.Fits s.latched.dst 32 → s.Stores .hread s.h.toList

/-- R130. -/
def Obligations.ShaStoresDigest : Prop :=
  ∀ s : State, s.Fits s.latched.src s.latched.len.toNat → s.Fits s.latched.dst 32 →
    s.Stores .sha (sha256 (s.dmem.readBytes s.latched.src.toNat s.latched.len.toNat)).toList

/-- R144. -/
def Obligations.ZeroClearsRegion : Prop :=
  ∀ s : State, s.Fits s.latched.dst s.latched.len.toNat →
    s.Stores .zero (List.replicate s.latched.len.toNat 0)

/-! ### Errors, and what commands leave alone (spec/60_exceptions.md) -/

/-- R60, R77, R148: a region out of range, of any command that has one, raises BOUNDS and nothing is written. -/
def Obligations.OutOfRangeRegionsRaiseBounds : Prop :=
  ∀ (i : Instr) (s : State) (r : Word × Nat),
    r ∈ inRegions i s.latched ∨ outRegion i s.latched = some r → s.dmemsz.toNat < r.1.toNat + r.2 →
    ((∃ a, i = .aeadDec a) → 16 ≤ s.latched.len.toNat) → s.Fails i .bounds

/-- R149: of the errors that apply, every command reports the first of the order, under its number of R148, and ILLEGAL
comes before them all. -/
def Obligations.FirstApplicableErrorIsReported : Prop :=
  (∀ (i : Instr) (s : State), ∃ t, exec i s = .next t ∧
    match s.firstError i with
    | some e => s.RecordsError t e
    | none => s.RecordsSuccess t (outLength i s.latched))
  ∧ ∀ s : State, s.NextIsCompletion → (∃ r, decode (joinWord s.latched.commandWord) = .error r) →
      ∃ t, step s = .next t ∧ s.RecordsError t .illegal

/-- R23, R34, R77, R134: the frame of every command, and of a completion of any word. That the latched record and the
record of the host stay too is the model's choice (log entries 4 and 1). -/
def Obligations.CommandsChangeOnlyTheirOutRegion : Prop :=
  (∀ (i : Instr) (s t : State), exec i s = .next t →
    s.SameControls t
      ∧ s.SameDmemWhere t (fun a => ∀ b n, outRegion i s.latched = some (b, n) → OutsideRegion b.toNat n a)
      ∧ (i ≠ .hinit → i ≠ .hupd → s.SameTranscript t))
  ∧ ∀ s t : State, s.NextIsCompletion → step s = .next t → s.SameControls t

/-- R98, R150: a completion that ends with ERR, of a command or of an illegal word, changes STATUS and OUTLEN and nothing
else. -/
def Obligations.ErrorsArePrecise : Prop :=
  ∀ s t : State, (∃ i, exec i s = .next t) ∨ (s.NextIsCompletion ∧ step s = .next t) → t.err = true →
    (∃ e, s.RecordsError t e) ∧ s.SameRegisters t ∧ s.SameTranscript t ∧ s.SameDmem t

/-- R84, R122, R141, R142: a command is a function of the latched operands, DMEM and the transcript alone. -/
def Obligations.CommandsReadOnlyLatchedOperands : Prop :=
  ∀ (i : Instr) (s s' : State),
    s.latched = s'.latched → s.dmem = s'.dmem → s.dmemsz = s'.dmemsz → s.h = s'.h → s.hEmpty = s'.hEmpty →
    ∃ t t', exec i s = .next t ∧ exec i s' = .next t' ∧ t.dmem = t'.dmem ∧ t.h = t'.h ∧ t.hEmpty = t'.hEmpty
      ∧ t.done = t'.done ∧ t.err = t'.err ∧ t.errcode = t'.errcode ∧ t.lastop = t'.lastop ∧ t.outlen = t'.outlen

/-! ### The host's accesses (spec/10_state.md, spec/20_memory.md, spec/44_control.md) -/

/-- R47, R48: which accesses get a bus error, in which no state changes (R50). -/
def Obligations.BusErrorsAndOnlyThose : Prop :=
  ∀ (s : State) (w : Width) (o : BitVec 21),
    let page := w = .word ∧ o.toNat < 0x1000 ∧ o.toNat % 4 = 0
    let dmem := ∃ n, (w, n) ∈ [(Width.byte, 1), (Width.half, 2), (Width.word, 4)]
      ∧ 0x100000 ≤ o.toNat ∧ o.toNat < 0x100000 + s.dmemsz.toNat ∧ o.toNat % n = 0
    (s.busRead w o = .busError ↔ ¬ (page ∨ dmem))
      ∧ ∀ v, (page ∨ dmem → (s.busWrite w o v).2 = .ack)
        ∧ (¬ (page ∨ dmem) → s.busWrite w o v = (s, .busError))

/-- R51: DMEM accesses of every width are little-endian, and change no other byte and no register. That narrow read data
is zero-extended to 32 bits, and narrow write data stands in the low bits, is the model's choice (log entry 12). -/
def Obligations.DmemAccessesAreLittleEndian : Prop :=
  ∀ (s : State) (w : Width) (n a : Nat) (o : BitVec 21) (v : Word),
    (w, n) ∈ [(Width.byte, 1), (Width.half, 2), (Width.word, 4)] →
    o.toNat = 0x100000 + a → a < s.dmemsz.toNat → a % n = 0 →
    s.busRead w o = .data (BitVec.ofNat 32 (leInt ((List.range n).map fun i => s.dmem.read (a + i))))
      ∧ (s.busWrite w o v).2 = .ack
      ∧ (∀ i < n, (s.busWrite w o v).1.dmem.read (a + i) = v.extractLsb' (8 * i) 8)
      ∧ s.SameDmemWhere (s.busWrite w o v).1 (OutsideRegion a n)
      ∧ { (s.busWrite w o v).1 with dmem := s.dmem } = s

/-- R55: no read changes the block (the reply goes to the host). -/
def Obligations.ReadsHaveNoSideEffects : Prop :=
  ∀ (s : State) (w : Width) (o : BitVec 21), s.perform (.read w o) = { s with replies := s.busRead w o :: s.replies }

/-- R23: the eight operand registers store what is written, also while BUSY, reset to 0, and no command writes them. -/
def Obligations.OperandRegistersHoldLastWrite : Prop :=
  (∀ (s : State) (v : Word),
    s.busWrite .word 0x010 v = ({ s with src := v }, .ack) ∧ s.busWrite .word 0x014 v = ({ s with len := v }, .ack)
    ∧ s.busWrite .word 0x018 v = ({ s with key := v }, .ack) ∧ s.busWrite .word 0x01C v = ({ s with ad := v }, .ack)
    ∧ s.busWrite .word 0x020 v = ({ s with adlen := v }, .ack) ∧ s.busWrite .word 0x024 v = ({ s with dst := v }, .ack)
    ∧ s.busWrite .word 0x028 v = ({ s with ctrLo := v }, .ack) ∧ s.busWrite .word 0x02C v = ({ s with ctrHi := v }, .ack)
    ∧ s.busRead .word 0x010 = .data s.src ∧ s.busRead .word 0x014 = .data s.len ∧ s.busRead .word 0x018 = .data s.key
    ∧ s.busRead .word 0x01C = .data s.ad ∧ s.busRead .word 0x020 = .data s.adlen ∧ s.busRead .word 0x024 = .data s.dst
    ∧ s.busRead .word 0x028 = .data s.ctrLo ∧ s.busRead .word 0x02C = .data s.ctrHi)
  ∧ (∀ (i : Instr) (s t : State), exec i s = .next t →
      t.src = s.src ∧ t.len = s.len ∧ t.key = s.key ∧ t.ad = s.ad ∧ t.adlen = s.adlen ∧ t.dst = s.dst
      ∧ t.ctrLo = s.ctrLo ∧ t.ctrHi = s.ctrHi)
  ∧ State.reset.src = 0 ∧ State.reset.len = 0 ∧ State.reset.key = 0 ∧ State.reset.ad = 0 ∧ State.reset.adlen = 0
  ∧ State.reset.dst = 0 ∧ State.reset.ctrLo = 0 ∧ State.reset.ctrHi = 0

/-- R24, R56: ID, OUTLEN, DMEMSZ, H0 to H7 and every field of STATUS but DONE, ERR and OVR ignore writes, with a normal
acknowledge; ID reads 0x4C430007 always. -/
def Obligations.ReadOnlyRegistersIgnoreWrites : Prop :=
  ∀ (s : State) (v : Word),
    s.busRead .word 0x000 = .data 0x4C430007 ∧ s.busRead .word 0x030 = .data s.outlen
      ∧ s.busRead .word 0x034 = .data s.dmemsz
      ∧ s.busWrite .word 0x000 v = (s, .ack) ∧ s.busWrite .word 0x030 v = (s, .ack)
      ∧ s.busWrite .word 0x034 v = (s, .ack)
      ∧ (∀ k < 8, s.busWrite .word (BitVec.ofNat 21 (0x040 + 4 * k)) v = (s, .ack))
      ∧ ∃ d e o, s.busWrite .word 0x008 v = ({ s with done := d, err := e, ovr := o }, .ack)

/-- R40: the reserved offsets of the register page. -/
def Obligations.ReservedOffsetsReadZero : Prop :=
  ∀ (s : State) (o : BitVec 21) (v : Word), o.toNat % 4 = 0 →
    o.toNat = 0x038 ∨ o.toNat = 0x03C ∨ (0x060 ≤ o.toNat ∧ o.toNat ≤ 0xFFC) →
    s.busRead .word o = .data 0 ∧ s.busWrite .word o v = (s, .ack)

/-- R36, R52: H0 to H7, copied to consecutive words in the bus's byte order, are `H` byte for byte. -/
def Obligations.TranscriptRegistersShowTranscript : Prop :=
  ∀ s : State, ∃ w : Fin 8 → Word,
    (∀ k : Fin 8, s.busRead .word (BitVec.ofNat 21 (0x040 + 4 * k)) = .data (w k)
      ∧ w k = BitVec.ofNat 32 (leInt ((s.h.toList.drop (4 * k)).take 4)))
    ∧ (List.finRange 8).flatMap (fun k => leBytes 4 (w k).toNat) = s.h.toList

/-- R26: the STATUS word, field by field. -/
def Obligations.StatusWordShowsFields : Prop :=
  ∀ s : State, ∃ w, s.busRead .word 0x008 = .data w
    ∧ w.getLsbD 0 = decide (s.phase = .busy) ∧ w.getLsbD 1 = s.done ∧ w.getLsbD 2 = s.err ∧ w.getLsbD 3 = s.ovr
    ∧ w.getLsbD 4 = s.hEmpty ∧ w.extractLsb' 5 3 = 0 ∧ w.extractLsb' 8 8 = s.errcode
    ∧ w.extractLsb' 16 8 = s.lastop ∧ w.extractLsb' 24 8 = 0

/-- R27: write-1-to-clear; ERRCODE and LASTOP change only at an accepted START, at completion and at reset. -/
def Obligations.StatusClearsByWritingOne : Prop :=
  (∀ (s : State) (v : Word), ∃ t, s.busWrite .word 0x008 v = (t, .ack)
    ∧ t.done = (s.done && !v.getLsbD 1) ∧ t.err = (s.err && !v.getLsbD 2) ∧ t.ovr = (s.ovr && !v.getLsbD 3)
    ∧ { t with done := s.done, err := s.err, ovr := s.ovr } = s)
  ∧ ∀ s t : State, step s = .next t → t.errcode ≠ s.errcode ∨ t.lastop ≠ s.lastop →
      (s.phase = .idle ∧ s.NextIsStart) ∨ s.NextIsCompletion ∨ s.NextIsReset

/-- R25: CTRL reads `IRQ_EN << 2`, 0 after reset; a write sets IRQ_EN, then SRST acts, else START. -/
def Obligations.CtrlWritesActInOrder : Prop :=
  ∀ (s : State) (v : Word),
    s.busRead .word 0x004 = .data (if s.irqEn then 4 else 0)
      ∧ s.busWrite .word 0x004 v =
        (if v.getLsbD 1 then State.softReset { s with irqEn := v.getLsbD 2 }
          else if v.getLsbD 0 then State.start { s with irqEn := v.getLsbD 2 }
          else { s with irqEn := v.getLsbD 2 }, .ack)
      ∧ State.reset.busRead .word 0x004 = .data 0

/-- R137: START while IDLE latches the operands, clears the record of the last command, and lets `irq` fall. -/
def Obligations.StartLatchesOperands : Prop :=
  ∀ (s : State) (v : Word), s.phase = .idle → v.getLsbD 0 = true → v.getLsbD 1 = false →
    ∃ t, s.busWrite .word 0x004 v = (t, .ack)
      ∧ t.latched.op = s.cmd.extractLsb' 0 8 ∧ t.latched.adh = s.cmd.getLsbD 8 ∧ t.latched.rsv = s.cmd.extractLsb' 9 23
      ∧ t.latched.src = s.src ∧ t.latched.len = s.len ∧ t.latched.key = s.key ∧ t.latched.ad = s.ad
      ∧ t.latched.adlen = s.adlen ∧ t.latched.dst = s.dst
      ∧ t.latched.ctr.toNat = s.ctrHi.toNat * 2 ^ 32 + s.ctrLo.toNat
      ∧ t.done = false ∧ t.err = false ∧ t.errcode = 0 ∧ t.outlen = 0 ∧ t.phase = .busy ∧ t.irq = false
      ∧ t.irqEn = v.getLsbD 2 ∧ t.ovr = s.ovr ∧ t.lastop = s.lastop ∧ t.cmd = s.cmd
      ∧ t.src = s.src ∧ t.len = s.len ∧ t.key = s.key ∧ t.ad = s.ad ∧ t.adlen = s.adlen ∧ t.dst = s.dst
      ∧ t.ctrLo = s.ctrLo ∧ t.ctrHi = s.ctrHi ∧ t.h = s.h ∧ t.hEmpty = s.hEmpty ∧ s.SameDmem t ∧ t.dmemsz = s.dmemsz

/-- R138: START while BUSY sets OVR and IRQ_EN, and nothing else. -/
def Obligations.StartWhileBusyOnlySetsOvr : Prop :=
  ∀ (s : State) (v : Word), s.phase = .busy → v.getLsbD 0 = true → v.getLsbD 1 = false →
    s.busWrite .word 0x004 v = ({ s with ovr := true, irqEn := v.getLsbD 2 }, .ack)

/-- R26, R154: OVR is set by a START refused while BUSY, and by nothing else. -/
def Obligations.OvrIsSetByRefusedStartOnly : Prop :=
  ∀ s t : State, step s = .next t → s.ovr = false → (t.ovr = true ↔ s.phase = .busy ∧ s.NextIsStart)

/-- R41: `irq`, and the events that clear it. -/
def Obligations.InterruptFollowsDoneOrErr : Prop :=
  ∀ s : State, (s.irq = true ↔ s.irqEn = true ∧ (s.done = true ∨ s.err = true))
    ∧ (∀ b, State.irq { s with ovr := b } = s.irq)
    ∧ (∀ v : Word, v.getLsbD 1 = true → v.getLsbD 2 = true → (s.busWrite .word 0x008 v).1.irq = false)
    ∧ (∀ v : Word, v.getLsbD 2 = false → (s.busWrite .word 0x004 v).1.irq = false)
    ∧ ∀ v : Word, s.phase = .idle → v.getLsbD 0 = true → (s.busWrite .word 0x004 v).1.irq = false

/-- R165, R166: soft reset, IDLE or BUSY: the reset values of R43, DMEM all zero, no completion, START ignored. -/
def Obligations.SoftResetClearsEverything : Prop :=
  ∀ (s : State) (v : Word), v.getLsbD 1 = true →
    ∃ t, s.busWrite .word 0x004 v = (t, .ack) ∧ t.AtResetValues ∧ t.dmemsz = s.dmemsz ∧ ∀ a, t.dmem.read a = 0x00

/-- R43, R164: what power-on reset leaves, at the start of the machine and later. As an input event it is the model's
choice (log entry 15). Nothing is said of DMEM, whose `DMEM_POR` bytes are a free value. -/
def Obligations.PowerOnResetGivesResetValues : Prop :=
  State.reset.AtResetValues ∧ State.reset.busRead .word 0x034 = .data 0x20000
    ∧ State.reset.busRead .word 0x008 = .data 0x00000010
    ∧ ∀ (s : State) (rest : List HostEvent), s.turn = .host .powerOn rest →
        ∃ t, step s = .next t ∧ t.AtResetValues ∧ t.dmemsz = s.dmemsz

/-- R57: a host access to DMEM while BUSY has no step until the command completes, and is performed on what it left. The
model's choices in it: the next event is what log entry 1 makes of the host, the completion comes at that very step (log
entry 2), and a misaligned or wrong-width access in the window is held too (log entry 8). -/
def Obligations.DmemAccessesWaitForCompletion : Prop :=
  ∀ (s : State) (a : Access) (rest : List HostEvent), s.phase = .busy → s.pending = .access a :: rest →
    0x100000 ≤ a.offset.toNat → a.offset.toNat < 0x100000 + s.dmemsz.toNat →
    ∃ t, step s = .next t ∧ t.phase = .idle ∧ t.pending = s.pending ∧ t.replies = s.replies
      ∧ step t = .next (State.perform { t with pending := rest } a)

/-- R58: an access to the register page is performed also while BUSY, as long as the completion is not due (log entry 2). -/
def Obligations.RegisterAccessesAreNotHeld : Prop :=
  ∀ (s : State) (a : Access) (rest : List HostEvent), s.phase = .busy → s.wait ≠ 0 →
    s.pending = .access a :: rest → a.offset.toNat < 0x1000 →
    step s = .next (State.perform { s with pending := rest, wait := s.wait - 1 } a)

/-! ### Every step of the machine -/

/-- The invariant of the block is kept by every step, from every state. -/
def Obligations.EveryStepKeepsInvariant : Prop := ∀ s t : State, s.Inv → step s = .next t → t.Inv

/-- The invariant holds after reset. -/
def Obligations.InvariantHoldsAtReset : Prop := State.reset.Inv

/-- R134: only HINIT, HUPD and reset write the transcript. -/
def Obligations.TranscriptIsWrittenByHinitHupdAndReset : Prop :=
  ∀ s t : State, step s = .next t → t.h ≠ s.h ∨ t.hEmpty ≠ s.hEmpty →
    (s.NextIsCompletion ∧ (decode (joinWord s.latched.commandWord) = .ok .hinit
      ∨ decode (joinWord s.latched.commandWord) = .ok .hupd)) ∨ s.NextIsReset

/-- R136: STATUS.BUSY is the phase, the engine has no step while IDLE, and the four ways in which the phase changes. -/
def Obligations.PhaseChangesInFourWays : Prop :=
  ∀ s t : State, step s = .next t →
    (∃ w, s.busRead .word 0x008 = .data w ∧ (w.getLsbD 0 = true ↔ s.phase = .busy))
      ∧ (s.phase = .idle → (t.phase = .busy ↔ s.NextIsStart) ∧ s.turn ≠ .engine)
      ∧ (s.phase = .busy → (t.phase = .idle ↔ s.NextIsCompletion ∨ s.NextIsReset))

/-- R141, R57, R138: from START, with the START itself, to completion nothing touches DMEM or the transcript, and nothing
touches the latched operands while BUSY. -/
def Obligations.OperandsStandUntilCompletion : Prop :=
  ∀ s t : State, step s = .next t → t.phase = .busy →
    t.dmem = s.dmem ∧ t.h = s.h ∧ t.hEmpty = s.hEmpty ∧ t.dmemsz = s.dmemsz
      ∧ (s.phase = .busy → t.latched = s.latched ∧ t.outlen = s.outlen)

/-- R39, R57: a DMEM byte changes only where a completed command's out region or a host write while IDLE covers it, or by a
reset. -/
def Obligations.DmemBytesChangeOnlyWhereWritten : Prop :=
  ∀ (s t : State) (x : Nat), step s = .next t → t.dmem.read x ≠ s.dmem.read x →
    (s.NextIsCompletion ∧ t.done = true ∧ ∃ i b n, decode (joinWord s.latched.commandWord) = .ok i
        ∧ outRegion i s.latched = some (b, n) ∧ b.toNat ≤ x ∧ x < b.toNat + n)
      ∨ (s.phase = .idle ∧ ∃ w n o v rest, s.turn = .host (.access (.write w o v)) rest ∧ w.bytes = some n
        ∧ o.toNat ≤ 0x100000 + x ∧ 0x100000 + x < o.toNat + n)
      ∨ s.NextIsReset

/-- R37: DMEMSZ never changes; OUTLEN changes only at START, at completion, by reset, as R37 says. -/
def Obligations.OutlenChangesAtStartCompletionAndReset : Prop :=
  ∀ s t : State, step s = .next t →
    t.dmemsz = s.dmemsz
      ∧ (t.outlen ≠ s.outlen → (s.phase = .idle ∧ s.NextIsStart) ∨ s.NextIsCompletion ∨ s.NextIsReset)
      ∧ (s.NextIsCompletion →
          (t.err = true → t.outlen = 0)
          ∧ (t.done = true → ∃ i, decode (joinWord s.latched.commandWord) = .ok i
              ∧ t.outlen.toNat = outLength i s.latched))

/-- R19, R139: a command that is BUSY completes, or is reset, after finitely many steps, no more than the host events to
come and one. That the engine moves when the host has no step is the model's (log entry 2). -/
def Obligations.BusyEndsWithinPendingSteps : Prop :=
  ∀ s : State, s.phase = .busy →
    ∃ k t, k ≤ s.pending.length + 1 ∧ Sys2Proof.core.run k s = .next t ∧ t.phase = .idle

/-- R169, with log entry 2: while the host polls, the result does not depend on how many of its reads come before the
completion. -/
def Obligations.ResultsDoNotDependOnLatency : Prop :=
  ∀ s u : State, s.phase = .busy → s.HostOnlyPolls → step { s with pending := [] } = .next u →
    ∃ k t, k ≤ s.pending.length + 1 ∧ Sys2Proof.core.run k s = .next t
      ∧ t = { u with pending := t.pending, replies := t.replies }

/-! ### The primitives (spec/40_aead.md to spec/43_transcript.md) -/

/-- R91: four zero bytes, then the counter in little-endian order. -/
def Obligations.NonceIsZerosAndCounter : Prop :=
  ∀ ctr : BitVec 64, (nonce ctr).length = 12 ∧ (nonce ctr).take 4 = [0x00, 0x00, 0x00, 0x00]
    ∧ leInt ((nonce ctr).drop 4) = ctr.toNat

/-- R88: ChaCha20 keeps the length, and decryption is the same function. -/
def Obligations.ChachaXorIsItsOwnInverse : Prop :=
  ∀ (k nc m : Bytes) (j : Nat), (chachaXor k j nc m).length = m.length ∧ chachaXor k j nc (chachaXor k j nc m) = m

/-- R99: decryption of an encryption gives the plaintext; in block terms, AEAD_DEC of what AEAD_ENC wrote, wherever it was
moved since, stores the plaintext again. -/
def Obligations.AeadRoundTrip : Prop :=
  (∀ (k nc ad pt : Bytes), aeadOpen k nc ad (aeadSeal k nc ad pt) = some pt)
  ∧ ∀ (a b : AdSource) (s t u : State), exec (.aeadEnc a) s = .next t → t.done = true →
      u.dmem.readBytes u.latched.key.toNat 32 = s.dmem.readBytes s.latched.key.toNat 32 →
      u.adBytes b = s.adBytes a → u.latched.ctr = s.latched.ctr →
      u.latched.len.toNat = s.latched.len.toNat + 16 →
      u.dmem.readBytes u.latched.src.toNat u.latched.len.toNat
        = t.dmem.readBytes s.latched.dst.toNat (s.latched.len.toNat + 16) →
      u.Fits u.latched.key 32 → u.Fits u.latched.src u.latched.len.toNat →
      (b = .region → u.Fits u.latched.ad u.latched.adlen.toNat) → u.Fits u.latched.dst (u.latched.len.toNat - 16) →
      let pt := s.dmem.readBytes s.latched.src.toNat s.latched.len.toNat
      ∃ v, exec (.aeadDec b) u = .next v ∧ u.RecordsSuccess v pt.length
        ∧ v.dmem.readBytes u.latched.dst.toNat pt.length = pt
        ∧ u.SameDmemWhere v (OutsideRegion u.latched.dst.toNat pt.length)
        ∧ u.SameRegisters v ∧ u.SameTranscript v

/-- R126: the padded message is whole blocks, begins with the message and a 0x80, ends with its bit length, and the zeros
between are the fewest. -/
def Obligations.ShaPaddingIsLeast : Prop :=
  ∀ m : Bytes, ∃ z, shaPad m = m ++ [0x80] ++ List.replicate z 0x00 ++ beBytes 8 (8 * m.length)
    ∧ (m.length + 1 + z + 8) % 64 = 0 ∧ ∀ y, (m.length + 1 + y + 8) % 64 = 0 → z ≤ y

/-- R104, R105: scalar multiplication satisfies the rule's recursion, for every point that the group law is on. -/
def Obligations.ScalarMultiplicationRecursion : Prop :=
  ∀ q : Point, onCurve q = true → pointMul 0 q = .infinity ∧ ∀ k, 1 ≤ k → pointMul k q = pointAdd (pointMul (k - 1) q) q

/-- R109: no point has order 2; decompressing a valid public key and compressing it again gives the key; and the point's
negative, of the other parity, has an encoding too. -/
def Obligations.CompressInvertsDecompress : Prop :=
  (∀ x : Nat, (x ^ 3 + 7) % secpP ≠ 0)
  ∧ ∀ (b : Bytes) (q : Point), b.length = 33 → decompress b = some q →
      onCurve q = true ∧ compress q = b
        ∧ ∃ x y, q = .affine x y ∧ 1 ≤ y ∧ y < secpP ∧ (secpP - y) % 2 ≠ y % 2
          ∧ decompress (BitVec.ofNat 8 (2 + (secpP - y) % 2) :: b.drop 1) = some (.affine x (secpP - y))

/-- R110: a valid scalar times a point other than `O` is never `O`, so `compress` of it is always defined. -/
def Obligations.ValidScalarsNeverGiveInfinity : Prop :=
  ∀ (k : Nat) (q : Point), 1 ≤ k → k ≤ secpN - 1 → onCurve q = true → q ≠ .infinity → pointMul k q ≠ .infinity

/-- R112: both parties compute the same shared secret. -/
def Obligations.EcdhIsSymmetric : Prop :=
  ∀ a b : Nat, 1 ≤ a → a ≤ secpN - 1 → 1 ≤ b → b ≤ secpN - 1 →
    sharedSecret (pointMul b secpG) a = sharedSecret (pointMul a secpG) b
end

