-- ==== Sys2Proof/Laws/Memory.lean ====
section
/-!
SUPPORT. The laws of DMEM: a read after a write, and that every memory operation keeps the canonical form
(spec/10_state.md R39; 00_scope.md R14).
-/

namespace Sys2Proof.Machine

@[simp] theorem Memory.writeBytes_fill (m : Memory) (a : Nat) (bs : Bytes) : (m.writeBytes a bs).fill = m.fill := rfl

@[simp] theorem Memory.readBytes_length (m : Memory) (a n : Nat) : (m.readBytes a n).length = n := by
  simp [Memory.readBytes]

/-- Byte `i` of a read is the byte at that address. -/
theorem Memory.readBytes_getElem (m : Memory) (a n i : Nat) (h : i < (m.readBytes a n).length) :
    (m.readBytes a n)[i] = m.read (a + i) := by
  simp [Memory.readBytes]

/-- Two reads agree when the memories agree on the region. -/
theorem Memory.readBytes_congr (m m' : Memory) (a n : Nat) (h : ∀ i < n, m'.read (a + i) = m.read (a + i)) :
    m'.readBytes a n = m.readBytes a n := by
  simp only [Memory.readBytes]
  exact List.map_congr_left fun i hi => h i (List.mem_range.mp hi)

theorem lookupCell_append (l k : List Host.Cell) (a : Nat) :
    lookupCell (l ++ k) a = (lookupCell l a).or (lookupCell k a) := by
  induction l with
  | nil => rfl
  | cons c l ih =>
    simp only [List.cons_append, lookupCell]
    split
    · rfl
    · exact ih

theorem lookupCell_filter (l : List Host.Cell) (p : Nat → Bool) (a : Nat) :
    lookupCell (l.filter fun c => p c.1) a = if p a then lookupCell l a else none := by
  induction l with
  | nil => simp [lookupCell]
  | cons c l ih =>
    simp only [List.filter_cons]
    by_cases h : c.1 = a
    · subst h
      by_cases hc : p c.1 = true <;> simp [hc, lookupCell, ih]
    · by_cases hc : p c.1 = true <;> simp [hc, h, lookupCell, ih]

theorem Memory.lookup_entries_outside (m : Memory) (bs : Bytes) (b a : Nat) (h : a < b ∨ b + bs.length ≤ a) :
    lookupCell (m.entries b bs) a = none := by
  induction bs generalizing b with
  | nil => rfl
  | cons v bs ih =>
    have hrec : lookupCell (m.entries (b + 1) bs) a = none := by
      apply ih
      simp only [List.length_cons] at h
      omega
    have hne : ¬ b = a := by
      simp only [List.length_cons] at h
      omega
    unfold Memory.entries
    split
    · exact hrec
    · simp [lookupCell, hne, hrec]

/-- The entry for byte `i` of a write is that byte, or none because an unlisted address holds it anyway. -/
theorem Memory.lookup_entries_inside (m : Memory) (bs : Bytes) (b i : Nat) (h : i < bs.length) :
    lookupCell (m.entries b bs) (b + i) = if m.unlisted = some bs[i] then none else some bs[i] := by
  induction bs generalizing b i with
  | nil => simp at h
  | cons v bs ih =>
    unfold Memory.entries
    cases i with
    | zero =>
      have hout : lookupCell (m.entries (b + 1) bs) b = none :=
        m.lookup_entries_outside bs (b + 1) b (Or.inl (Nat.lt_succ_self b))
      simp only [Nat.add_zero, List.getElem_cons_zero]
      split
      · exact hout
      · simp [lookupCell]
    | succ i =>
      have hi : i < bs.length := by simpa using h
      have hrec := ih (b + 1) i hi
      have hadd : b + (i + 1) = b + 1 + i := by omega
      have hne : ¬ b = b + 1 + i := by omega
      simp only [List.getElem_cons_succ, hadd]
      split
      · exact hrec
      · simp [lookupCell, hne, hrec]

/-- What an unlisted address reads as is what it holds. -/
theorem Memory.byteAt_of_unlisted (m : Memory) (v : Byte) (a : Nat) (h : m.unlisted = some v) :
    m.fill.byteAt a = v := by
  unfold Memory.unlisted at h
  unfold Fill.byteAt
  split at h <;> simp_all

/-- A write leaves every byte outside its region alone. -/
theorem Memory.read_writeBytes_outside (m : Memory) (b : Nat) (bs : Bytes) (a : Nat)
    (h : a < b ∨ b + bs.length ≤ a) : (m.writeBytes b bs).read a = m.read a := by
  have hl : lookupCell (m.writeBytes b bs).cells a = lookupCell m.cells a := by
    simp only [Memory.writeBytes, lookupCell_append, m.lookup_entries_outside bs b a h]
    rw [lookupCell_filter m.cells (fun x => decide (x < b)) a,
      lookupCell_filter m.cells (fun x => decide (b + bs.length ≤ x)) a]
    rcases h with h | h
    · have h2 : ¬ b + bs.length ≤ a := by omega
      simp [h, h2]
    · have h2 : ¬ a < b := by omega
      simp [h, h2]
  simp only [Memory.read, hl, Memory.writeBytes_fill]

/-- A read after a write to the same place gives the byte written. -/
theorem Memory.read_writeBytes_inside (m : Memory) (b : Nat) (bs : Bytes) (i : Nat) (h : i < bs.length) :
    (m.writeBytes b bs).read (b + i) = bs[i] := by
  have hl : lookupCell (m.writeBytes b bs).cells (b + i) = if m.unlisted = some bs[i] then none else some bs[i] := by
    simp only [Memory.writeBytes, lookupCell_append, m.lookup_entries_inside bs b i h]
    rw [lookupCell_filter m.cells (fun x => decide (x < b)) (b + i),
      lookupCell_filter m.cells (fun x => decide (b + bs.length ≤ x)) (b + i)]
    have h1 : ¬ b + i < b := by omega
    have h2 : ¬ b + bs.length ≤ b + i := by omega
    simp [h1, h2]
  simp only [Memory.read, hl, Memory.writeBytes_fill]
  split
  · next hu => simpa using m.byteAt_of_unlisted _ (b + i) hu
  · rfl

/-- Reading back a whole region gives what was written to it. -/
theorem Memory.readBytes_writeBytes_same (m : Memory) (b : Nat) (bs : Bytes) :
    (m.writeBytes b bs).readBytes b bs.length = bs := by
  apply List.ext_getElem
  · simp
  · intro i h1 h2
    rw [Memory.readBytes_getElem, Memory.read_writeBytes_inside _ _ _ _ h2]

/-- An empty DMEM is in canonical form. -/
@[simp] theorem Memory.wf_nil (f : Fill) (size : Nat) : Memory.wf { fill := f, cells := [] } size = true := by
  simp [Memory.wf]

/-- The canonical form, spelled out. -/
theorem Memory.wf_iff (m : Memory) (size : Nat) :
    m.wf size = true ↔ m.cells.Pairwise (fun c d => c.1 < d.1) ∧ ∀ c ∈ m.cells, c.1 < size ∧ m.unlisted ≠ some c.2 := by
  simp [Memory.wf]

theorem Memory.mem_entries (m : Memory) (bs : Bytes) (b : Nat) (c : Host.Cell) (h : c ∈ m.entries b bs) :
    b ≤ c.1 ∧ c.1 < b + bs.length ∧ m.unlisted ≠ some c.2 := by
  induction bs generalizing b with
  | nil => simp [Memory.entries] at h
  | cons v bs ih =>
    simp only [List.length_cons]
    unfold Memory.entries at h
    split at h
    · have := ih (b + 1) h
      exact ⟨by omega, by omega, this.2.2⟩
    · next hu =>
      rcases List.mem_cons.mp h with rfl | h
      · exact ⟨le_refl _, by simp, hu⟩
      · have := ih (b + 1) h
        exact ⟨by omega, by omega, this.2.2⟩

theorem Memory.entries_pairwise (m : Memory) (bs : Bytes) (b : Nat) :
    (m.entries b bs).Pairwise fun c d => c.1 < d.1 := by
  induction bs generalizing b with
  | nil => simp [Memory.entries]
  | cons v bs ih =>
    unfold Memory.entries
    split
    · exact ih (b + 1)
    · refine List.pairwise_cons.mpr ⟨fun c hc => ?_, ih (b + 1)⟩
      have := m.mem_entries bs (b + 1) c hc
      simp only
      omega

/-- A write in range keeps the canonical form. -/
theorem Memory.writeBytes_wf (m : Memory) (b : Nat) (bs : Bytes) (size : Nat) (hm : m.wf size = true)
    (hr : b + bs.length ≤ size) : (m.writeBytes b bs).wf size = true := by
  obtain ⟨hp, hc⟩ := (m.wf_iff size).mp hm
  refine (Memory.wf_iff _ size).mpr ⟨?_, ?_⟩
  · simp only [Memory.writeBytes]
    refine List.pairwise_append.mpr ⟨List.pairwise_append.mpr ⟨hp.filter _, m.entries_pairwise bs b, ?_⟩, hp.filter _, ?_⟩
    · intro c hc d hd
      have h1 : c.1 < b := by simpa using (List.mem_filter.mp hc).2
      have h2 := m.mem_entries bs b d hd
      omega
    · intro c hc d hd
      have h2 : b + bs.length ≤ d.1 := by simpa using (List.mem_filter.mp hd).2
      rcases List.mem_append.mp hc with hc | hc
      · have h1 : c.1 < b := by simpa using (List.mem_filter.mp hc).2
        omega
      · have h1 := m.mem_entries bs b c hc
        omega
  · intro c hcm
    have hu : (m.writeBytes b bs).unlisted = m.unlisted := rfl
    rw [hu]
    simp only [Memory.writeBytes] at hcm
    rcases List.mem_append.mp hcm with h | h
    · rcases List.mem_append.mp h with h | h
      · exact hc c (List.mem_filter.mp h).1
      · have h1 := m.mem_entries bs b c h
        exact ⟨by omega, h1.2.2⟩
    · exact hc c (List.mem_filter.mp h).1

end Sys2Proof.Machine
end

