-- ==== Sys2Proof/Laws/State.lean ====
section
/-!
SUPPORT. What each shared update of the state makes of each field: one lemma per field per update, so that no later
proof unfolds a record update.
-/

namespace Sys2Proof.Machine

/-! ### `MemWrite` -/

@[simp] theorem State.memWrite_irqEn (s : State) (a : Word) (v : Bytes) : (s.memWrite a v).irqEn = s.irqEn := rfl
@[simp] theorem State.memWrite_done (s : State) (a : Word) (v : Bytes) : (s.memWrite a v).done = s.done := rfl
@[simp] theorem State.memWrite_err (s : State) (a : Word) (v : Bytes) : (s.memWrite a v).err = s.err := rfl
@[simp] theorem State.memWrite_ovr (s : State) (a : Word) (v : Bytes) : (s.memWrite a v).ovr = s.ovr := rfl
@[simp] theorem State.memWrite_errcode (s : State) (a : Word) (v : Bytes) : (s.memWrite a v).errcode = s.errcode := rfl
@[simp] theorem State.memWrite_lastop (s : State) (a : Word) (v : Bytes) : (s.memWrite a v).lastop = s.lastop := rfl
@[simp] theorem State.memWrite_cmd (s : State) (a : Word) (v : Bytes) : (s.memWrite a v).cmd = s.cmd := rfl
@[simp] theorem State.memWrite_src (s : State) (a : Word) (v : Bytes) : (s.memWrite a v).src = s.src := rfl
@[simp] theorem State.memWrite_len (s : State) (a : Word) (v : Bytes) : (s.memWrite a v).len = s.len := rfl
@[simp] theorem State.memWrite_key (s : State) (a : Word) (v : Bytes) : (s.memWrite a v).key = s.key := rfl
@[simp] theorem State.memWrite_ad (s : State) (a : Word) (v : Bytes) : (s.memWrite a v).ad = s.ad := rfl
@[simp] theorem State.memWrite_adlen (s : State) (a : Word) (v : Bytes) : (s.memWrite a v).adlen = s.adlen := rfl
@[simp] theorem State.memWrite_dst (s : State) (a : Word) (v : Bytes) : (s.memWrite a v).dst = s.dst := rfl
@[simp] theorem State.memWrite_ctrLo (s : State) (a : Word) (v : Bytes) : (s.memWrite a v).ctrLo = s.ctrLo := rfl
@[simp] theorem State.memWrite_ctrHi (s : State) (a : Word) (v : Bytes) : (s.memWrite a v).ctrHi = s.ctrHi := rfl
@[simp] theorem State.memWrite_outlen (s : State) (a : Word) (v : Bytes) : (s.memWrite a v).outlen = s.outlen := rfl
@[simp] theorem State.memWrite_dmemsz (s : State) (a : Word) (v : Bytes) : (s.memWrite a v).dmemsz = s.dmemsz := rfl
@[simp] theorem State.memWrite_h (s : State) (a : Word) (v : Bytes) : (s.memWrite a v).h = s.h := rfl
@[simp] theorem State.memWrite_hEmpty (s : State) (a : Word) (v : Bytes) : (s.memWrite a v).hEmpty = s.hEmpty := rfl
@[simp] theorem State.memWrite_phase (s : State) (a : Word) (v : Bytes) : (s.memWrite a v).phase = s.phase := rfl
@[simp] theorem State.memWrite_latched (s : State) (a : Word) (v : Bytes) : (s.memWrite a v).latched = s.latched := rfl
@[simp] theorem State.memWrite_dmem (s : State) (a : Word) (v : Bytes) : (s.memWrite a v).dmem = s.dmem.writeBytes a.toNat v := rfl
@[simp] theorem State.memWrite_wait (s : State) (a : Word) (v : Bytes) : (s.memWrite a v).wait = s.wait := rfl
@[simp] theorem State.memWrite_starts (s : State) (a : Word) (v : Bytes) : (s.memWrite a v).starts = s.starts := rfl
@[simp] theorem State.memWrite_powerOns (s : State) (a : Word) (v : Bytes) : (s.memWrite a v).powerOns = s.powerOns := rfl
@[simp] theorem State.memWrite_pending (s : State) (a : Word) (v : Bytes) : (s.memWrite a v).pending = s.pending := rfl
@[simp] theorem State.memWrite_replies (s : State) (a : Word) (v : Bytes) : (s.memWrite a v).replies = s.replies := rfl

/-! ### `complete(n)` -/

@[simp] theorem State.complete_irqEn (s : State) (n : Nat) : (s.complete n).irqEn = s.irqEn := rfl
@[simp] theorem State.complete_done (s : State) (n : Nat) : (s.complete n).done = true := rfl
@[simp] theorem State.complete_err (s : State) (n : Nat) : (s.complete n).err = false := rfl
@[simp] theorem State.complete_ovr (s : State) (n : Nat) : (s.complete n).ovr = s.ovr := rfl
@[simp] theorem State.complete_errcode (s : State) (n : Nat) : (s.complete n).errcode = 0 := rfl
@[simp] theorem State.complete_lastop (s : State) (n : Nat) : (s.complete n).lastop = s.latched.op := rfl
@[simp] theorem State.complete_cmd (s : State) (n : Nat) : (s.complete n).cmd = s.cmd := rfl
@[simp] theorem State.complete_src (s : State) (n : Nat) : (s.complete n).src = s.src := rfl
@[simp] theorem State.complete_len (s : State) (n : Nat) : (s.complete n).len = s.len := rfl
@[simp] theorem State.complete_key (s : State) (n : Nat) : (s.complete n).key = s.key := rfl
@[simp] theorem State.complete_ad (s : State) (n : Nat) : (s.complete n).ad = s.ad := rfl
@[simp] theorem State.complete_adlen (s : State) (n : Nat) : (s.complete n).adlen = s.adlen := rfl
@[simp] theorem State.complete_dst (s : State) (n : Nat) : (s.complete n).dst = s.dst := rfl
@[simp] theorem State.complete_ctrLo (s : State) (n : Nat) : (s.complete n).ctrLo = s.ctrLo := rfl
@[simp] theorem State.complete_ctrHi (s : State) (n : Nat) : (s.complete n).ctrHi = s.ctrHi := rfl
@[simp] theorem State.complete_outlen (s : State) (n : Nat) : (s.complete n).outlen = BitVec.ofNat 32 n := rfl
@[simp] theorem State.complete_dmemsz (s : State) (n : Nat) : (s.complete n).dmemsz = s.dmemsz := rfl
@[simp] theorem State.complete_h (s : State) (n : Nat) : (s.complete n).h = s.h := rfl
@[simp] theorem State.complete_hEmpty (s : State) (n : Nat) : (s.complete n).hEmpty = s.hEmpty := rfl
@[simp] theorem State.complete_phase (s : State) (n : Nat) : (s.complete n).phase = .idle := rfl
@[simp] theorem State.complete_latched (s : State) (n : Nat) : (s.complete n).latched = s.latched := rfl
@[simp] theorem State.complete_dmem (s : State) (n : Nat) : (s.complete n).dmem = s.dmem := rfl
@[simp] theorem State.complete_wait (s : State) (n : Nat) : (s.complete n).wait = 0 := rfl
@[simp] theorem State.complete_starts (s : State) (n : Nat) : (s.complete n).starts = s.starts := rfl
@[simp] theorem State.complete_powerOns (s : State) (n : Nat) : (s.complete n).powerOns = s.powerOns := rfl
@[simp] theorem State.complete_pending (s : State) (n : Nat) : (s.complete n).pending = s.pending := rfl
@[simp] theorem State.complete_replies (s : State) (n : Nat) : (s.complete n).replies = s.replies := rfl

/-! ### `raise E` -/

@[simp] theorem State.raise_irqEn (s : State) (e : ErrCode) : (s.raise e).irqEn = s.irqEn := rfl
@[simp] theorem State.raise_done (s : State) (e : ErrCode) : (s.raise e).done = false := rfl
@[simp] theorem State.raise_err (s : State) (e : ErrCode) : (s.raise e).err = true := rfl
@[simp] theorem State.raise_ovr (s : State) (e : ErrCode) : (s.raise e).ovr = s.ovr := rfl
@[simp] theorem State.raise_errcode (s : State) (e : ErrCode) : (s.raise e).errcode = e.code := rfl
@[simp] theorem State.raise_lastop (s : State) (e : ErrCode) : (s.raise e).lastop = s.latched.op := rfl
@[simp] theorem State.raise_cmd (s : State) (e : ErrCode) : (s.raise e).cmd = s.cmd := rfl
@[simp] theorem State.raise_src (s : State) (e : ErrCode) : (s.raise e).src = s.src := rfl
@[simp] theorem State.raise_len (s : State) (e : ErrCode) : (s.raise e).len = s.len := rfl
@[simp] theorem State.raise_key (s : State) (e : ErrCode) : (s.raise e).key = s.key := rfl
@[simp] theorem State.raise_ad (s : State) (e : ErrCode) : (s.raise e).ad = s.ad := rfl
@[simp] theorem State.raise_adlen (s : State) (e : ErrCode) : (s.raise e).adlen = s.adlen := rfl
@[simp] theorem State.raise_dst (s : State) (e : ErrCode) : (s.raise e).dst = s.dst := rfl
@[simp] theorem State.raise_ctrLo (s : State) (e : ErrCode) : (s.raise e).ctrLo = s.ctrLo := rfl
@[simp] theorem State.raise_ctrHi (s : State) (e : ErrCode) : (s.raise e).ctrHi = s.ctrHi := rfl
@[simp] theorem State.raise_outlen (s : State) (e : ErrCode) : (s.raise e).outlen = 0 := rfl
@[simp] theorem State.raise_dmemsz (s : State) (e : ErrCode) : (s.raise e).dmemsz = s.dmemsz := rfl
@[simp] theorem State.raise_h (s : State) (e : ErrCode) : (s.raise e).h = s.h := rfl
@[simp] theorem State.raise_hEmpty (s : State) (e : ErrCode) : (s.raise e).hEmpty = s.hEmpty := rfl
@[simp] theorem State.raise_phase (s : State) (e : ErrCode) : (s.raise e).phase = .idle := rfl
@[simp] theorem State.raise_latched (s : State) (e : ErrCode) : (s.raise e).latched = s.latched := rfl
@[simp] theorem State.raise_dmem (s : State) (e : ErrCode) : (s.raise e).dmem = s.dmem := rfl
@[simp] theorem State.raise_wait (s : State) (e : ErrCode) : (s.raise e).wait = 0 := rfl
@[simp] theorem State.raise_starts (s : State) (e : ErrCode) : (s.raise e).starts = s.starts := rfl
@[simp] theorem State.raise_powerOns (s : State) (e : ErrCode) : (s.raise e).powerOns = s.powerOns := rfl
@[simp] theorem State.raise_pending (s : State) (e : ErrCode) : (s.raise e).pending = s.pending := rfl
@[simp] theorem State.raise_replies (s : State) (e : ErrCode) : (s.raise e).replies = s.replies := rfl

/-! ### a write to STATUS -/

@[simp] theorem State.writeStatus_irqEn (s : State) (v : Word) : (s.writeStatus v).irqEn = s.irqEn := rfl
@[simp] theorem State.writeStatus_done (s : State) (v : Word) : (s.writeStatus v).done = (s.done && !v.getLsbD 1) := rfl
@[simp] theorem State.writeStatus_err (s : State) (v : Word) : (s.writeStatus v).err = (s.err && !v.getLsbD 2) := rfl
@[simp] theorem State.writeStatus_ovr (s : State) (v : Word) : (s.writeStatus v).ovr = (s.ovr && !v.getLsbD 3) := rfl
@[simp] theorem State.writeStatus_errcode (s : State) (v : Word) : (s.writeStatus v).errcode = s.errcode := rfl
@[simp] theorem State.writeStatus_lastop (s : State) (v : Word) : (s.writeStatus v).lastop = s.lastop := rfl
@[simp] theorem State.writeStatus_cmd (s : State) (v : Word) : (s.writeStatus v).cmd = s.cmd := rfl
@[simp] theorem State.writeStatus_src (s : State) (v : Word) : (s.writeStatus v).src = s.src := rfl
@[simp] theorem State.writeStatus_len (s : State) (v : Word) : (s.writeStatus v).len = s.len := rfl
@[simp] theorem State.writeStatus_key (s : State) (v : Word) : (s.writeStatus v).key = s.key := rfl
@[simp] theorem State.writeStatus_ad (s : State) (v : Word) : (s.writeStatus v).ad = s.ad := rfl
@[simp] theorem State.writeStatus_adlen (s : State) (v : Word) : (s.writeStatus v).adlen = s.adlen := rfl
@[simp] theorem State.writeStatus_dst (s : State) (v : Word) : (s.writeStatus v).dst = s.dst := rfl
@[simp] theorem State.writeStatus_ctrLo (s : State) (v : Word) : (s.writeStatus v).ctrLo = s.ctrLo := rfl
@[simp] theorem State.writeStatus_ctrHi (s : State) (v : Word) : (s.writeStatus v).ctrHi = s.ctrHi := rfl
@[simp] theorem State.writeStatus_outlen (s : State) (v : Word) : (s.writeStatus v).outlen = s.outlen := rfl
@[simp] theorem State.writeStatus_dmemsz (s : State) (v : Word) : (s.writeStatus v).dmemsz = s.dmemsz := rfl
@[simp] theorem State.writeStatus_h (s : State) (v : Word) : (s.writeStatus v).h = s.h := rfl
@[simp] theorem State.writeStatus_hEmpty (s : State) (v : Word) : (s.writeStatus v).hEmpty = s.hEmpty := rfl
@[simp] theorem State.writeStatus_phase (s : State) (v : Word) : (s.writeStatus v).phase = s.phase := rfl
@[simp] theorem State.writeStatus_latched (s : State) (v : Word) : (s.writeStatus v).latched = s.latched := rfl
@[simp] theorem State.writeStatus_dmem (s : State) (v : Word) : (s.writeStatus v).dmem = s.dmem := rfl
@[simp] theorem State.writeStatus_wait (s : State) (v : Word) : (s.writeStatus v).wait = s.wait := rfl
@[simp] theorem State.writeStatus_starts (s : State) (v : Word) : (s.writeStatus v).starts = s.starts := rfl
@[simp] theorem State.writeStatus_powerOns (s : State) (v : Word) : (s.writeStatus v).powerOns = s.powerOns := rfl
@[simp] theorem State.writeStatus_pending (s : State) (v : Word) : (s.writeStatus v).pending = s.pending := rfl
@[simp] theorem State.writeStatus_replies (s : State) (v : Word) : (s.writeStatus v).replies = s.replies := rfl

/-! ### the resets -/

@[simp] theorem State.resetWith_irqEn (s : State) (m : Memory) : (s.resetWith m).irqEn = false := rfl
@[simp] theorem State.resetWith_done (s : State) (m : Memory) : (s.resetWith m).done = false := rfl
@[simp] theorem State.resetWith_err (s : State) (m : Memory) : (s.resetWith m).err = false := rfl
@[simp] theorem State.resetWith_ovr (s : State) (m : Memory) : (s.resetWith m).ovr = false := rfl
@[simp] theorem State.resetWith_errcode (s : State) (m : Memory) : (s.resetWith m).errcode = 0 := rfl
@[simp] theorem State.resetWith_lastop (s : State) (m : Memory) : (s.resetWith m).lastop = 0 := rfl
@[simp] theorem State.resetWith_cmd (s : State) (m : Memory) : (s.resetWith m).cmd = 0 := rfl
@[simp] theorem State.resetWith_src (s : State) (m : Memory) : (s.resetWith m).src = 0 := rfl
@[simp] theorem State.resetWith_len (s : State) (m : Memory) : (s.resetWith m).len = 0 := rfl
@[simp] theorem State.resetWith_key (s : State) (m : Memory) : (s.resetWith m).key = 0 := rfl
@[simp] theorem State.resetWith_ad (s : State) (m : Memory) : (s.resetWith m).ad = 0 := rfl
@[simp] theorem State.resetWith_adlen (s : State) (m : Memory) : (s.resetWith m).adlen = 0 := rfl
@[simp] theorem State.resetWith_dst (s : State) (m : Memory) : (s.resetWith m).dst = 0 := rfl
@[simp] theorem State.resetWith_ctrLo (s : State) (m : Memory) : (s.resetWith m).ctrLo = 0 := rfl
@[simp] theorem State.resetWith_ctrHi (s : State) (m : Memory) : (s.resetWith m).ctrHi = 0 := rfl
@[simp] theorem State.resetWith_outlen (s : State) (m : Memory) : (s.resetWith m).outlen = 0 := rfl
@[simp] theorem State.resetWith_dmemsz (s : State) (m : Memory) : (s.resetWith m).dmemsz = s.dmemsz := rfl
@[simp] theorem State.resetWith_h (s : State) (m : Memory) : (s.resetWith m).h = Vector.replicate 32 0 := rfl
@[simp] theorem State.resetWith_hEmpty (s : State) (m : Memory) : (s.resetWith m).hEmpty = true := rfl
@[simp] theorem State.resetWith_phase (s : State) (m : Memory) : (s.resetWith m).phase = .idle := rfl
@[simp] theorem State.resetWith_latched (s : State) (m : Memory) : (s.resetWith m).latched = Latched.initial := rfl
@[simp] theorem State.resetWith_dmem (s : State) (m : Memory) : (s.resetWith m).dmem = m := rfl
@[simp] theorem State.resetWith_wait (s : State) (m : Memory) : (s.resetWith m).wait = 0 := rfl
@[simp] theorem State.resetWith_starts (s : State) (m : Memory) : (s.resetWith m).starts = s.starts := rfl
@[simp] theorem State.resetWith_powerOns (s : State) (m : Memory) : (s.resetWith m).powerOns = s.powerOns := rfl
@[simp] theorem State.resetWith_pending (s : State) (m : Memory) : (s.resetWith m).pending = s.pending := rfl
@[simp] theorem State.resetWith_replies (s : State) (m : Memory) : (s.resetWith m).replies = s.replies := rfl

/-! ### soft reset -/

@[simp] theorem State.softReset_irqEn (s : State) : (s.softReset).irqEn = false := rfl
@[simp] theorem State.softReset_done (s : State) : (s.softReset).done = false := rfl
@[simp] theorem State.softReset_err (s : State) : (s.softReset).err = false := rfl
@[simp] theorem State.softReset_ovr (s : State) : (s.softReset).ovr = false := rfl
@[simp] theorem State.softReset_errcode (s : State) : (s.softReset).errcode = 0 := rfl
@[simp] theorem State.softReset_lastop (s : State) : (s.softReset).lastop = 0 := rfl
@[simp] theorem State.softReset_cmd (s : State) : (s.softReset).cmd = 0 := rfl
@[simp] theorem State.softReset_src (s : State) : (s.softReset).src = 0 := rfl
@[simp] theorem State.softReset_len (s : State) : (s.softReset).len = 0 := rfl
@[simp] theorem State.softReset_key (s : State) : (s.softReset).key = 0 := rfl
@[simp] theorem State.softReset_ad (s : State) : (s.softReset).ad = 0 := rfl
@[simp] theorem State.softReset_adlen (s : State) : (s.softReset).adlen = 0 := rfl
@[simp] theorem State.softReset_dst (s : State) : (s.softReset).dst = 0 := rfl
@[simp] theorem State.softReset_ctrLo (s : State) : (s.softReset).ctrLo = 0 := rfl
@[simp] theorem State.softReset_ctrHi (s : State) : (s.softReset).ctrHi = 0 := rfl
@[simp] theorem State.softReset_outlen (s : State) : (s.softReset).outlen = 0 := rfl
@[simp] theorem State.softReset_dmemsz (s : State) : (s.softReset).dmemsz = s.dmemsz := rfl
@[simp] theorem State.softReset_h (s : State) : (s.softReset).h = Vector.replicate 32 0 := rfl
@[simp] theorem State.softReset_hEmpty (s : State) : (s.softReset).hEmpty = true := rfl
@[simp] theorem State.softReset_phase (s : State) : (s.softReset).phase = .idle := rfl
@[simp] theorem State.softReset_latched (s : State) : (s.softReset).latched = Latched.initial := rfl
@[simp] theorem State.softReset_dmem (s : State) : (s.softReset).dmem = { fill := .zeroed, cells := [] } := rfl
@[simp] theorem State.softReset_wait (s : State) : (s.softReset).wait = 0 := rfl
@[simp] theorem State.softReset_starts (s : State) : (s.softReset).starts = s.starts := rfl
@[simp] theorem State.softReset_powerOns (s : State) : (s.softReset).powerOns = s.powerOns := rfl
@[simp] theorem State.softReset_pending (s : State) : (s.softReset).pending = s.pending := rfl
@[simp] theorem State.softReset_replies (s : State) : (s.softReset).replies = s.replies := rfl

/-! ### power-on reset -/

@[simp] theorem State.powerOnReset_irqEn (s : State) : (s.powerOnReset).irqEn = false := rfl
@[simp] theorem State.powerOnReset_done (s : State) : (s.powerOnReset).done = false := rfl
@[simp] theorem State.powerOnReset_err (s : State) : (s.powerOnReset).err = false := rfl
@[simp] theorem State.powerOnReset_ovr (s : State) : (s.powerOnReset).ovr = false := rfl
@[simp] theorem State.powerOnReset_errcode (s : State) : (s.powerOnReset).errcode = 0 := rfl
@[simp] theorem State.powerOnReset_lastop (s : State) : (s.powerOnReset).lastop = 0 := rfl
@[simp] theorem State.powerOnReset_cmd (s : State) : (s.powerOnReset).cmd = 0 := rfl
@[simp] theorem State.powerOnReset_src (s : State) : (s.powerOnReset).src = 0 := rfl
@[simp] theorem State.powerOnReset_len (s : State) : (s.powerOnReset).len = 0 := rfl
@[simp] theorem State.powerOnReset_key (s : State) : (s.powerOnReset).key = 0 := rfl
@[simp] theorem State.powerOnReset_ad (s : State) : (s.powerOnReset).ad = 0 := rfl
@[simp] theorem State.powerOnReset_adlen (s : State) : (s.powerOnReset).adlen = 0 := rfl
@[simp] theorem State.powerOnReset_dst (s : State) : (s.powerOnReset).dst = 0 := rfl
@[simp] theorem State.powerOnReset_ctrLo (s : State) : (s.powerOnReset).ctrLo = 0 := rfl
@[simp] theorem State.powerOnReset_ctrHi (s : State) : (s.powerOnReset).ctrHi = 0 := rfl
@[simp] theorem State.powerOnReset_outlen (s : State) : (s.powerOnReset).outlen = 0 := rfl
@[simp] theorem State.powerOnReset_dmemsz (s : State) : (s.powerOnReset).dmemsz = s.dmemsz := rfl
@[simp] theorem State.powerOnReset_h (s : State) : (s.powerOnReset).h = Vector.replicate 32 0 := rfl
@[simp] theorem State.powerOnReset_hEmpty (s : State) : (s.powerOnReset).hEmpty = true := rfl
@[simp] theorem State.powerOnReset_phase (s : State) : (s.powerOnReset).phase = .idle := rfl
@[simp] theorem State.powerOnReset_latched (s : State) : (s.powerOnReset).latched = Latched.initial := rfl
@[simp] theorem State.powerOnReset_dmem (s : State) : (s.powerOnReset).dmem = { fill := .drawn (s.powerOns + 1), cells := [] } := rfl
@[simp] theorem State.powerOnReset_wait (s : State) : (s.powerOnReset).wait = 0 := rfl
@[simp] theorem State.powerOnReset_starts (s : State) : (s.powerOnReset).starts = s.starts := rfl
@[simp] theorem State.powerOnReset_powerOns (s : State) : (s.powerOnReset).powerOns = s.powerOns + 1 := rfl
@[simp] theorem State.powerOnReset_pending (s : State) : (s.powerOnReset).pending = s.pending := rfl
@[simp] theorem State.powerOnReset_replies (s : State) : (s.powerOnReset).replies = s.replies := rfl

/-! ### the latched word of `withFetchWord` -/

@[simp] theorem State.holdWord_irqEn (s : State) (w : Word) : (s.holdWord w).irqEn = s.irqEn := rfl
@[simp] theorem State.holdWord_done (s : State) (w : Word) : (s.holdWord w).done = s.done := rfl
@[simp] theorem State.holdWord_err (s : State) (w : Word) : (s.holdWord w).err = s.err := rfl
@[simp] theorem State.holdWord_ovr (s : State) (w : Word) : (s.holdWord w).ovr = s.ovr := rfl
@[simp] theorem State.holdWord_errcode (s : State) (w : Word) : (s.holdWord w).errcode = s.errcode := rfl
@[simp] theorem State.holdWord_lastop (s : State) (w : Word) : (s.holdWord w).lastop = s.lastop := rfl
@[simp] theorem State.holdWord_cmd (s : State) (w : Word) : (s.holdWord w).cmd = s.cmd := rfl
@[simp] theorem State.holdWord_src (s : State) (w : Word) : (s.holdWord w).src = s.src := rfl
@[simp] theorem State.holdWord_len (s : State) (w : Word) : (s.holdWord w).len = s.len := rfl
@[simp] theorem State.holdWord_key (s : State) (w : Word) : (s.holdWord w).key = s.key := rfl
@[simp] theorem State.holdWord_ad (s : State) (w : Word) : (s.holdWord w).ad = s.ad := rfl
@[simp] theorem State.holdWord_adlen (s : State) (w : Word) : (s.holdWord w).adlen = s.adlen := rfl
@[simp] theorem State.holdWord_dst (s : State) (w : Word) : (s.holdWord w).dst = s.dst := rfl
@[simp] theorem State.holdWord_ctrLo (s : State) (w : Word) : (s.holdWord w).ctrLo = s.ctrLo := rfl
@[simp] theorem State.holdWord_ctrHi (s : State) (w : Word) : (s.holdWord w).ctrHi = s.ctrHi := rfl
@[simp] theorem State.holdWord_outlen (s : State) (w : Word) : (s.holdWord w).outlen = s.outlen := rfl
@[simp] theorem State.holdWord_dmemsz (s : State) (w : Word) : (s.holdWord w).dmemsz = s.dmemsz := rfl
@[simp] theorem State.holdWord_h (s : State) (w : Word) : (s.holdWord w).h = s.h := rfl
@[simp] theorem State.holdWord_hEmpty (s : State) (w : Word) : (s.holdWord w).hEmpty = s.hEmpty := rfl
@[simp] theorem State.holdWord_phase (s : State) (w : Word) : (s.holdWord w).phase = .busy := rfl
@[simp] theorem State.holdWord_latched (s : State) (w : Word) : (s.holdWord w).latched = { s.latched with op := (splitWord w).op, adh := (splitWord w).adh, rsv := (splitWord w).rsv } := rfl
@[simp] theorem State.holdWord_dmem (s : State) (w : Word) : (s.holdWord w).dmem = s.dmem := rfl
@[simp] theorem State.holdWord_wait (s : State) (w : Word) : (s.holdWord w).wait = 0 := rfl
@[simp] theorem State.holdWord_starts (s : State) (w : Word) : (s.holdWord w).starts = s.starts := rfl
@[simp] theorem State.holdWord_powerOns (s : State) (w : Word) : (s.holdWord w).powerOns = s.powerOns := rfl
@[simp] theorem State.holdWord_pending (s : State) (w : Word) : (s.holdWord w).pending = s.pending := rfl
@[simp] theorem State.holdWord_replies (s : State) (w : Word) : (s.holdWord w).replies = s.replies := rfl

/-! ### START -/

@[simp] theorem State.start_idle_irqEn (s : State) (h : s.phase = .idle) : s.start.irqEn = s.irqEn := by
  simp [State.start, h]
@[simp] theorem State.start_idle_done (s : State) (h : s.phase = .idle) : s.start.done = false := by
  simp [State.start, h]
@[simp] theorem State.start_idle_err (s : State) (h : s.phase = .idle) : s.start.err = false := by
  simp [State.start, h]
@[simp] theorem State.start_idle_ovr (s : State) (h : s.phase = .idle) : s.start.ovr = s.ovr := by
  simp [State.start, h]
@[simp] theorem State.start_idle_errcode (s : State) (h : s.phase = .idle) : s.start.errcode = 0 := by
  simp [State.start, h]
@[simp] theorem State.start_idle_lastop (s : State) (h : s.phase = .idle) : s.start.lastop = s.lastop := by
  simp [State.start, h]
@[simp] theorem State.start_idle_cmd (s : State) (h : s.phase = .idle) : s.start.cmd = s.cmd := by
  simp [State.start, h]
@[simp] theorem State.start_idle_src (s : State) (h : s.phase = .idle) : s.start.src = s.src := by
  simp [State.start, h]
@[simp] theorem State.start_idle_len (s : State) (h : s.phase = .idle) : s.start.len = s.len := by
  simp [State.start, h]
@[simp] theorem State.start_idle_key (s : State) (h : s.phase = .idle) : s.start.key = s.key := by
  simp [State.start, h]
@[simp] theorem State.start_idle_ad (s : State) (h : s.phase = .idle) : s.start.ad = s.ad := by
  simp [State.start, h]
@[simp] theorem State.start_idle_adlen (s : State) (h : s.phase = .idle) : s.start.adlen = s.adlen := by
  simp [State.start, h]
@[simp] theorem State.start_idle_dst (s : State) (h : s.phase = .idle) : s.start.dst = s.dst := by
  simp [State.start, h]
@[simp] theorem State.start_idle_ctrLo (s : State) (h : s.phase = .idle) : s.start.ctrLo = s.ctrLo := by
  simp [State.start, h]
@[simp] theorem State.start_idle_ctrHi (s : State) (h : s.phase = .idle) : s.start.ctrHi = s.ctrHi := by
  simp [State.start, h]
@[simp] theorem State.start_idle_outlen (s : State) (h : s.phase = .idle) : s.start.outlen = 0 := by
  simp [State.start, h]
@[simp] theorem State.start_idle_dmemsz (s : State) (h : s.phase = .idle) : s.start.dmemsz = s.dmemsz := by
  simp [State.start, h]
@[simp] theorem State.start_idle_h (s : State) (h : s.phase = .idle) : s.start.h = s.h := by
  simp [State.start, h]
@[simp] theorem State.start_idle_hEmpty (s : State) (h : s.phase = .idle) : s.start.hEmpty = s.hEmpty := by
  simp [State.start, h]
@[simp] theorem State.start_idle_phase (s : State) (h : s.phase = .idle) : s.start.phase = .busy := by
  simp [State.start, h]
@[simp] theorem State.start_idle_latched (s : State) (h : s.phase = .idle) : s.start.latched = s.operands := by
  simp [State.start, h]
@[simp] theorem State.start_idle_dmem (s : State) (h : s.phase = .idle) : s.start.dmem = s.dmem := by
  simp [State.start, h]
@[simp] theorem State.start_idle_wait (s : State) (h : s.phase = .idle) : s.start.wait = Config.latency s.starts := by
  simp [State.start, h]
@[simp] theorem State.start_idle_starts (s : State) (h : s.phase = .idle) : s.start.starts = s.starts + 1 := by
  simp [State.start, h]
@[simp] theorem State.start_idle_powerOns (s : State) (h : s.phase = .idle) : s.start.powerOns = s.powerOns := by
  simp [State.start, h]
@[simp] theorem State.start_idle_pending (s : State) (h : s.phase = .idle) : s.start.pending = s.pending := by
  simp [State.start, h]
@[simp] theorem State.start_idle_replies (s : State) (h : s.phase = .idle) : s.start.replies = s.replies := by
  simp [State.start, h]

/-- A START while BUSY sets OVR and does nothing else (spec/44_control.md R138). -/
theorem State.start_busy (s : State) (h : s.phase = .busy) : s.start = { s with ovr := true } := by
  simp [State.start, h]

end Sys2Proof.Machine
end

