-- ==== Sys2Proof/Laws/Ops.lean ====
section
/-!
SUPPORT. What each shared operation can do, said once: the two ends of a command, memory writes through the state, the
resets, and whose step is next.
-/

namespace Sys2Proof.Machine

@[simp] theorem State.memRead_length (s : State) (a : Word) (n : Nat) : (s.memRead a n).length = n := by
  simp [State.memRead]

/-- `MemWrite` leaves every byte outside its region alone. -/
theorem State.memWrite_read_outside (s : State) (a : Word) (v : Bytes) (x : Nat)
    (h : x < a.toNat ∨ a.toNat + v.length ≤ x) : (s.memWrite a v).dmem.read x = s.dmem.read x := by
  simpa using s.dmem.read_writeBytes_outside a.toNat v x h

/-- `MemWrite`, then `MemRead` of the same region, gives the bytes written. -/
theorem State.memWrite_readBytes (s : State) (a : Word) (v : Bytes) :
    (s.memWrite a v).dmem.readBytes a.toNat v.length = v := by
  simpa using s.dmem.readBytes_writeBytes_same a.toNat v

/-- A `MemWrite` in range keeps DMEM's canonical form. -/
theorem State.memWrite_wf (s : State) (a : Word) (v : Bytes) (hm : s.dmem.wf s.dmemsz.toNat = true)
    (hr : s.inRange a v.length = true) : (s.memWrite a v).dmem.wf s.dmemsz.toNat = true := by
  have hr' : a.toNat + v.length ≤ s.dmemsz.toNat := by simpa [State.inRange] using hr
  simpa using s.dmem.writeBytes_wf a.toNat v s.dmemsz.toNat hm hr'

/-- Both resets leave DMEM in canonical form. -/
theorem State.softReset_wf (s : State) (size : Nat) : s.softReset.dmem.wf size = true := by simp

theorem State.powerOnReset_wf (s : State) (size : Nat) : s.powerOnReset.dmem.wf size = true := by simp

/-- A host write to DMEM in range keeps the canonical form. -/
theorem State.accessDmem_bounds (s : State) (w : Width) (o : BitVec 21) (a n : Nat)
    (h : s.accessDmem w o = some (a, n)) (h4 : s.dmemsz.toNat % 4 = 0) :
    a + n ≤ s.dmemsz.toNat ∧ a % n = 0 ∧ w.bytes = some n := by
  unfold State.accessDmem at h
  split at h
  · next n' a' hw ht =>
    split at h
    · next hm =>
      simp only [Option.some.injEq, Prod.mk.injEq] at h
      obtain ⟨rfl, rfl⟩ := h
      refine ⟨?_, hm, hw⟩
      have hlt : a' < s.dmemsz.toNat := by
        unfold State.target at ht
        split at ht
        · simp at ht
        · split at ht
          · simp only [Target.dmem.injEq] at ht
            omega
          · simp at ht
      cases w <;> simp only [Width.bytes, Option.some.injEq, reduceCtorEq] at hw <;> subst hw <;> omega
    · simp at h
  · simp at h

/-- Whose turn it is, case by case. -/
theorem State.turn_idle_nil (s : State) (h : s.phase = .idle) (hp : s.pending = []) : s.turn = .quiet := by
  simp [State.turn, h, hp]

theorem State.turn_idle_cons (s : State) (e : HostEvent) (rest : List HostEvent) (h : s.phase = .idle)
    (hp : s.pending = e :: rest) : s.turn = .host e rest := by
  simp [State.turn, h, hp]

theorem State.turn_busy_nil (s : State) (h : s.phase = .busy) (hp : s.pending = []) : s.turn = .engine := by
  simp [State.turn, h, hp]

theorem State.turn_busy_cons (s : State) (e : HostEvent) (rest : List HostEvent) (h : s.phase = .busy)
    (hp : s.pending = e :: rest) :
    s.turn = if s.wait = 0 then .engine else if s.held e then .engine else .host e rest := by
  simp [State.turn, h, hp]

/-- It is the engine's turn exactly when a command is held and it is due, or the host has no step. -/
theorem State.turn_engine_iff (s : State) :
    s.turn = .engine ↔ s.phase = .busy ∧ (s.wait = 0 ∨ ∀ e, s.pending.head? = some e → s.held e = true) := by
  cases h : s.phase <;> cases hp : s.pending with
  | nil => simp [State.turn, h, hp]
  | cons e rest =>
    by_cases hw : s.wait = 0 <;> by_cases hh : s.held e = true <;> simp [State.turn, h, hp, hw, hh]

/-- It is the host's turn exactly when an event is to come, and the engine is IDLE, or its command is not due and the
event is not held. -/
theorem State.turn_host_iff (s : State) (e : HostEvent) (rest : List HostEvent) :
    s.turn = .host e rest ↔ s.pending = e :: rest ∧ (s.phase = .idle ∨ (s.wait ≠ 0 ∧ s.held e = false)) := by
  cases h : s.phase <;> cases hp : s.pending with
  | nil => simp [State.turn, h, hp]
  | cons e' rest' =>
    by_cases hw : s.wait = 0 <;> by_cases hh : s.held e' = true <;> simp [State.turn, h, hp, hw, hh] <;>
      (intro he; subst he; simp [hh])

/-- Neither agent has a step exactly when the engine is IDLE and no host event is to come. -/
theorem State.turn_quiet_iff (s : State) : s.turn = .quiet ↔ s.phase = .idle ∧ s.pending = [] := by
  cases h : s.phase <;> cases hp : s.pending with
  | nil => simp [State.turn, h, hp]
  | cons e rest =>
    by_cases hw : s.wait = 0 <;> by_cases hh : s.held e = true <;> simp [State.turn, h, hp, hw, hh]

/-- Everything one step can do. -/
theorem step_cases (s : State) :
    (s.turn = .engine ∧ ∃ i, s.fetch = .ok i ∧ step s = exec i s)
    ∨ (s.turn = .engine ∧ (∃ r, s.fetch = .error r) ∧ step s = .next (s.raise .illegal))
    ∨ (∃ e rest, s.turn = .host e rest ∧ step s = .next (s.hostStep e rest))
    ∨ (s.turn = .quiet ∧ step s = .next s) := by
  unfold step
  cases ht : s.turn with
  | engine =>
    cases hf : s.fetch with
    | ok i => simp
    | error r => simp
  | host e rest => simp
  | quiet => simp

end Sys2Proof.Machine
end

