-- ==== Sys2Proof/Laws/Bus.lean ====
section
/-!
SUPPORT. Everything one host transaction can do, said once: a read, a register write, a DMEM write, or a bus error
(spec/20_memory.md R46 to R58).
-/

namespace Sys2Proof.Machine

/-- A register access is a 32-bit access at an aligned offset of the register page. -/
theorem State.accessReg_eq_some (s : State) (w : Width) (o : BitVec 21) (r : Reg) :
    s.accessReg w o = some r ↔ w = .word ∧ o.toNat < 0x1000 ∧ o.toNat % 4 = 0 ∧ r = regAt o.toNat := by
  have ht : s.target o = .page o.toNat ↔ o.toNat < 0x1000 := by
    unfold State.target
    split
    · next h => simp [h]
    · next h => split <;> simp [h]
  by_cases h1 : o.toNat < 0x1000
  · by_cases h2 : o.toNat % 4 = 0
    · cases w <;> simp [State.accessReg, ht.mpr h1, h1, h2, eq_comm]
    · cases w <;> simp [State.accessReg, ht.mpr h1, h1, h2]
  · have h3 : ∀ p, s.target o ≠ .page p := by
      intro p
      unfold State.target
      rw [if_neg h1]
      split <;> simp
    refine ⟨fun h => ?_, fun h => absurd h.2.1 h1⟩
    unfold State.accessReg at h
    split at h
    · next h' => exact absurd h' (h3 _)
    · simp at h

/-- A DMEM access is a naturally aligned access of 1, 2 or 4 bytes in the DMEM window. -/
theorem State.accessDmem_eq_some (s : State) (w : Width) (o : BitVec 21) (a n : Nat) :
    s.accessDmem w o = some (a, n) ↔
      w.bytes = some n ∧ o.toNat = 0x100000 + a ∧ a < s.dmemsz.toNat ∧ a % n = 0 := by
  unfold State.accessDmem State.target
  rcases hw : w.bytes with _ | m
  · simp
  · by_cases h1 : o.toNat < 0x1000
    · simp only [h1, if_true, reduceCtorEq, false_iff, Option.some.injEq, not_and]
      omega
    · by_cases h2 : 0x100000 ≤ o.toNat ∧ o.toNat < 0x100000 + s.dmemsz.toNat
      · rw [if_neg h1, if_pos h2]
        by_cases h3 : (o.toNat - 0x100000) % m = 0
        · simp only [h3, if_true, Option.some.injEq, Prod.mk.injEq]
          constructor
          · rintro ⟨rfl, rfl⟩
            exact ⟨rfl, by omega, by omega, h3⟩
          · rintro ⟨rfl, h, -, -⟩
            exact ⟨by omega, rfl⟩
        · simp only [h3, if_false, reduceCtorEq, false_iff, Option.some.injEq, not_and]
          rintro rfl h - h4
          exact h3 (by rw [h, Nat.add_sub_cancel_left]; exact h4)
      · rw [if_neg h1, if_neg h2]
        simp only [reduceCtorEq, false_iff, Option.some.injEq, not_and]
        omega

/-- CTRL stands at offset 0x004 alone. -/
theorem regAt_eq_ctrl (o : Nat) : regAt o = .ctrl ↔ o = 0x004 := by
  unfold regAt
  split <;> simp
  omega

/-- STATUS stands at offset 0x008 alone. -/
theorem regAt_eq_status (o : Nat) : regAt o = .status ↔ o = 0x008 := by
  unfold regAt
  split <;> simp
  omega

/-- Everything a transaction can do to the block, beside the reply it records. -/
theorem State.perform_cases (s : State) (a : Access) :
    (∃ w o, a = .read w o ∧ s.perform a = { s with replies := s.busRead w o :: s.replies })
    ∨ (∃ o v, a = .write .word o v ∧ o.toNat < 0x1000 ∧ o.toNat % 4 = 0
        ∧ s.perform a
          = { s.writeReg (regAt o.toNat) v with replies := .ack :: (s.writeReg (regAt o.toNat) v).replies })
    ∨ (∃ w o v x n, a = .write w o v ∧ w.bytes = some n ∧ o.toNat = 0x100000 + x ∧ x < s.dmemsz.toNat ∧ x % n = 0
        ∧ s.perform a
          = { s with dmem := s.dmem.writeBytes x (leBytes n v.toNat), replies := .ack :: s.replies })
    ∨ (∃ w o v, a = .write w o v ∧ s.perform a = { s with replies := .busError :: s.replies }) := by
  cases a with
  | read w o => exact .inl ⟨w, o, rfl, rfl⟩
  | write w o v =>
    right
    cases hr : s.accessReg w o with
    | some r =>
      obtain ⟨rfl, h1, h2, rfl⟩ := (s.accessReg_eq_some w o r).mp hr
      exact .inl ⟨o, v, rfl, h1, h2, by simp [State.perform, State.busWrite, hr]⟩
    | none =>
      right
      rcases hd : s.accessDmem w o with _ | ⟨x, n⟩
      · exact .inr ⟨w, o, v, rfl, by simp [State.perform, State.busWrite, hr, hd]⟩
      · obtain ⟨h1, h2, h3, h4⟩ := (s.accessDmem_eq_some w o x n).mp hd
        exact .inl ⟨w, o, v, x, n, rfl, h1, h2, h3, h4, by simp [State.perform, State.busWrite, hr, hd]⟩

/-- An access is held exactly while BUSY, and in the DMEM window. -/
theorem State.held_access (s : State) (a : Access) :
    s.held (.access a) = true ↔
      s.phase = .busy ∧ 0x100000 ≤ a.offset.toNat ∧ a.offset.toNat < 0x100000 + s.dmemsz.toNat := by
  unfold State.held State.target State.busy
  by_cases h1 : a.offset.toNat < 0x1000
  · simp only [h1, if_true, Bool.and_false, Bool.false_eq_true, false_iff]
    omega
  · by_cases h2 : 0x100000 ≤ a.offset.toNat ∧ a.offset.toNat < 0x100000 + s.dmemsz.toNat
    · simp [h1, h2]
    · simp only [h1, h2, if_false, Bool.and_false, Bool.false_eq_true, false_iff]
      tauto

end Sys2Proof.Machine
end

