-- ==== Sys2Proof/Laws/Bytes.lean ====
section
/-!
SUPPORT. Lengths and conversions of byte strings (spec/00_scope.md R11, R12).
-/

namespace Sys2Proof.Machine

@[simp] theorem zeros_length (n : Nat) : (zeros n).length = n := List.length_replicate

@[simp] theorem leBytes_length (n v : Nat) : (leBytes n v).length = n := by
  induction n generalizing v with
  | zero => rfl
  | succ n ih => simp [leBytes, ih]

@[simp] theorem beBytes_length (n v : Nat) : (beBytes n v).length = n := by simp [beBytes]

/-- `le_int(le_bytes(n, v)) = v mod 256^n` (00_scope.md R12). -/
theorem leInt_leBytes (n v : Nat) : leInt (leBytes n v) = v % 256 ^ n := by
  induction n generalizing v with
  | zero => simp [leBytes, leInt, Nat.mod_one]
  | succ n ih =>
    rw [leBytes, leInt, ih, Nat.pow_succ, Nat.mul_comm (256 ^ n) 256, Nat.mod_mul, BitVec.toNat_ofNat]

/-- A string of `n` bytes is below `256^n`. -/
theorem leInt_lt (s : Bytes) : leInt s < 256 ^ s.length := by
  induction s with
  | nil => simp [leInt]
  | cons b s ih =>
    have hb : b.toNat < 256 := b.isLt
    simp only [leInt, List.length_cons, Nat.pow_succ]
    omega

/-- `le_bytes(len(s), le_int(s)) = s` (00_scope.md R12). -/
theorem leBytes_leInt (s : Bytes) : leBytes s.length (leInt s) = s := by
  induction s with
  | nil => rfl
  | cons b s ih =>
    have hb : b.toNat < 256 := b.isLt
    have hq : (b.toNat + 256 * leInt s) / 256 = leInt s := by omega
    have hr : BitVec.ofNat 8 (b.toNat + 256 * leInt s) = b := by
      apply BitVec.eq_of_toNat_eq
      simp only [BitVec.toNat_ofNat]
      omega
    simp only [leInt, List.length_cons, leBytes, hq, hr, ih]

/-- `be_int(be_bytes(n, v)) = v mod 256^n` (00_scope.md R12). -/
theorem beInt_beBytes (n v : Nat) : beInt (beBytes n v) = v % 256 ^ n := by
  simp [beInt, beBytes, leInt_leBytes]

/-- `be_bytes(len(s), be_int(s)) = s` (00_scope.md R12). -/
theorem beBytes_beInt (s : Bytes) : beBytes s.length (beInt s) = s := by
  have h := leBytes_leInt s.reverse
  rw [List.length_reverse] at h
  rw [beBytes, beInt, h, List.reverse_reverse]

@[simp] theorem xorBytes_length (a b : Bytes) : (xorBytes a b).length = min a.length b.length := by
  simp [xorBytes]

@[simp] theorem blockAt_length (n : Nat) (m : Bytes) (i : Nat) :
    (blockAt n m i).length = min n (m.length - n * i) := by
  simp [blockAt]

end Sys2Proof.Machine
end

