-- ==== Sys2Proof/Laws/Crypto.lean ====
section
/-!
SUPPORT. The lengths of what the algorithms return (spec/30_encoding.md R77; 40_aead.md; 41_ecdh.md; 42_hkdf.md;
43_transcript.md).
-/

namespace Sys2Proof.Machine

/-- The length of a concatenation of equally long pieces. -/
theorem length_flatMap_const {α : Type} (l : List α) (f : α → Bytes) (n : Nat) (h : ∀ x ∈ l, (f x).length = n) :
    (l.flatMap f).length = l.length * n := by
  induction l with
  | nil => simp
  | cons x l ih =>
    have hx := h x (List.mem_cons_self ..)
    have hl := ih fun y hy => h y (List.mem_cons_of_mem _ hy)
    simp only [List.flatMap_cons, List.length_append, hx, hl, List.length_cons, Nat.succ_mul]
    omega

/-- A keystream block is 64 bytes (40_aead.md R87). -/
@[simp] theorem chachaBlock_length (k : Bytes) (j : Nat) (nc : Bytes) : (chachaBlock k j nc).length = 64 := by
  simp only [chachaBlock]
  rw [length_flatMap_const _ _ 4 (fun x _ => leBytes_length 4 _)]
  simp

/-- The first `c` blocks of the output of `chacha20_xor`, together. -/
theorem chachaXor_prefix_length (k : Bytes) (j0 : Nat) (nc m : Bytes) (c : Nat) :
    ((List.range c).flatMap fun i => xorBytes (blockAt 64 m i) (chachaBlock k (j0 + i) nc)).length
      = min (64 * c) m.length := by
  induction c with
  | zero => simp
  | succ c ih =>
    simp only [List.range_succ, List.flatMap_append, List.flatMap_cons, List.flatMap_nil, List.append_nil,
      List.length_append, ih, xorBytes_length, blockAt_length, chachaBlock_length]
    omega

/-- `chacha20_xor` keeps the length (40_aead.md R88). -/
@[simp] theorem chachaXor_length (k : Bytes) (j0 : Nat) (nc m : Bytes) : (chachaXor k j0 nc m).length = m.length := by
  rw [chachaXor, chachaXor_prefix_length]
  omega

/-- A tag is 16 bytes (40_aead.md R90). -/
@[simp] theorem poly1305_length (otk m : Bytes) : (poly1305 otk m).length = 16 := by simp [poly1305]

@[simp] theorem aeadTag_length (k nc ad ct : Bytes) : (aeadTag k nc ad ct).length = 16 := by simp [aeadTag]

/-- The AEAD output is 16 bytes longer than the plaintext (40_aead.md R94). -/
@[simp] theorem aeadSeal_length (k nc ad pt : Bytes) : (aeadSeal k nc ad pt).length = pt.length + 16 := by
  simp [aeadSeal]

/-- A verified input gives a plaintext 16 bytes shorter (40_aead.md R97). -/
theorem aeadOpen_length (k nc ad c pt : Bytes) (h : aeadOpen k nc ad c = some pt) : pt.length = c.length - 16 := by
  simp only [aeadOpen] at h
  split at h
  · simp only [Option.some.injEq] at h
    simp [← h]
  · simp at h

/-- A compressed point is 33 bytes (41_ecdh.md R107). -/
@[simp] theorem compress_length (p : Point) : (compress p).length = 33 := by
  cases p <;> simp [compress]

@[simp] theorem hmac_length (key data : Bytes) : (hmac key data).length = 32 := by simp [hmac]

/-- HKDF returns 64 bytes (42_hkdf.md R119). -/
@[simp] theorem hkdf_length (salt ikm : Bytes) : (hkdf salt ikm).length = 64 := by simp [hkdf]

end Sys2Proof.Machine
end

