-- ==== Sys2Proof/Laws/Encoding.lean ====
section
/-!
SUPPORT. Splitting a command word into its fields and joining the fields are inverse to each other (spec/30_encoding.md
R70, R78).
-/

namespace Sys2Proof

/-- The fields of a joined word are the fields it was joined from. -/
@[simp] theorem splitWord_joinWord (c : CommandWord) : splitWord (joinWord c) = c := by
  obtain ⟨op, adh, rsv⟩ := c
  simp only [splitWord, joinWord, CommandWord.mk.injEq]
  refine ⟨?_, ?_, ?_⟩
  · ext i hi
    have h2 : i < 9 := by omega
    have h3 : i < 32 := by omega
    simp [hi, h2, h3]
  · cases adh <;> simp
  · ext i hi
    have h1 : ¬ 9 + i - 8 = 0 := by omega
    have h2 : 9 + i < 32 := by omega
    have h4 : ¬ 9 + i < 8 := by omega
    have h5 : op.getLsbD (9 + i) = false := BitVec.getLsbD_of_ge _ _ (by omega)
    simp [hi, h1, h2, h4, h5]

/-- A word is joined from its fields. -/
@[simp] theorem joinWord_splitWord (w : Word) : joinWord (splitWord w) = w := by
  simp only [splitWord, joinWord]
  ext i hi
  by_cases h8 : i < 8
  · have : i < 9 := by omega
    simp [h8, this]
    exact BitVec.getLsbD_eq_getElem hi
  · by_cases h9 : i = 8
    · subst h9; simp
    · have h1 : ¬ i < 9 := by omega
      have h2 : 9 + (i - 9) = i := by omega
      have h3 : ¬ i - 8 = 0 := by omega
      have h4 : i - 9 < 23 := by omega
      simp [h8, h1, h2, h3, h4]
      exact BitVec.getLsbD_eq_getElem hi

end Sys2Proof
end

