-- ==== Sys2Proof/Laws/Exec.lean ====
section
/-!
SUPPORT. Everything a command can do, said once for all twelve: it raises an error, or it completes after writing at
most its out region and, for HINIT and HUPD, the transcript (spec/30_encoding.md R77; 44_control.md R139).
-/

namespace Sys2Proof.Machine

/-- How a command ends: with `raise E`, or with `complete(n)` after at most one write of `n` bytes at DST, or after an
update of the transcript. -/
inductive CommandEnd (i : Instr) (s : State) : State → Prop where
  | failed (e : ErrCode) : CommandEnd i s (s.raise e)
  | stored (v : Bytes) (n : Nat) (hout : outRegion i s.latched = some (s.latched.dst, n)) (hlen : v.length = n)
      (hr : s.inRange s.latched.dst n = true) : CommandEnd i s ((s.memWrite s.latched.dst v).complete n)
  | checked (hout : outRegion i s.latched = none) : CommandEnd i s (s.complete 0)
  | restarted (hi : i = .hinit) : CommandEnd i s (State.complete { s with h := Vector.replicate 32 0, hEmpty := true } 0)
  | updated (hi : i = .hupd) (d : Bytes) :
      CommandEnd i s (State.complete { s with h := s.nextTranscript d, hEmpty := false } 0)

/-- Every command takes a next state, and ends in one of the ways above. -/
theorem exec_ends (i : Instr) (s : State) : ∃ t, exec i s = .next t ∧ CommandEnd i s t := by
  cases i with
  | nop => exact ⟨_, rfl, .checked rfl⟩
  | aeadEnc a =>
    refine ⟨_, rfl, ?_⟩
    split
    · next h =>
      simp only [Bool.and_eq_true] at h
      exact .stored _ _ rfl (by simp) h.2
    · exact .failed _
  | aeadDec a =>
    refine ⟨_, rfl, ?_⟩
    split
    · exact .failed _
    · split
      · next h =>
        simp only [Bool.and_eq_true] at h
        dsimp only
        split
        · next pt hpt => exact .stored _ _ rfl (by simpa using aeadOpen_length _ _ _ _ _ hpt) h.2
        · exact .failed _
      · exact .failed _
  | ecdh =>
    refine ⟨_, rfl, ?_⟩
    split
    · next h =>
      simp only [Bool.and_eq_true] at h
      split
      · exact .failed _
      · dsimp only
        split
        · exact .stored _ _ rfl (by simp) h.2
        · exact .failed _
    · exact .failed _
  | ecpub =>
    refine ⟨_, rfl, ?_⟩
    split
    · next h =>
      simp only [Bool.and_eq_true] at h
      dsimp only
      split
      · exact .stored _ _ rfl (by simp) h.2
      · exact .failed _
    · exact .failed _
  | pkcheck =>
    refine ⟨_, rfl, ?_⟩
    split
    · split
      · exact .failed _
      · exact .checked rfl
    · exact .failed _
  | hkdf =>
    refine ⟨_, rfl, ?_⟩
    split
    · next h =>
      simp only [Bool.and_eq_true] at h
      exact .stored _ _ rfl (by simp) h.2
    · exact .failed _
  | hinit => exact ⟨_, rfl, .restarted rfl⟩
  | hupd =>
    refine ⟨_, rfl, ?_⟩
    split
    · exact .updated rfl _
    · exact .failed _
  | hread =>
    refine ⟨_, rfl, ?_⟩
    split
    · next h => exact .stored _ _ rfl (by simp) h
    · exact .failed _
  | sha =>
    refine ⟨_, rfl, ?_⟩
    split
    · next h =>
      simp only [Bool.and_eq_true] at h
      exact .stored _ _ rfl (by simp) h.2
    · exact .failed _
  | zero =>
    refine ⟨_, rfl, ?_⟩
    split
    · next h => exact .stored _ _ rfl (by simp) h
    · exact .failed _

/-- What a command that answers `next t` did. -/
theorem exec_cases (i : Instr) (s t : State) (h : exec i s = .next t) : CommandEnd i s t := by
  obtain ⟨u, hu, hc⟩ := exec_ends i s
  rw [hu] at h
  cases h
  exact hc

end Sys2Proof.Machine
end

