-- ==== Sys2Proof/Laws/PerInstr.lean ====
section
/-! SUPPORT. What holds of every command as syntax, one lemma for each constructor of Instr (spec/30_encoding.md R79). -/

namespace Sys2Proof.Laws

/-- The word of a command is legal: RSV = 0, an assigned opcode, ADH = 1 for the AEAD commands only. -/
def EncodesLegalWord.Statement (i : Instr) : Prop := (encodeFields i).wellFormed = true

theorem EncodesLegalWord.nop : EncodesLegalWord.Statement .nop := rfl

theorem EncodesLegalWord.aeadEnc (a : AdSource) : EncodesLegalWord.Statement (.aeadEnc a) := by cases a <;> rfl

theorem EncodesLegalWord.aeadDec (a : AdSource) : EncodesLegalWord.Statement (.aeadDec a) := by cases a <;> rfl

theorem EncodesLegalWord.ecdh : EncodesLegalWord.Statement .ecdh := rfl

theorem EncodesLegalWord.ecpub : EncodesLegalWord.Statement .ecpub := rfl

theorem EncodesLegalWord.pkcheck : EncodesLegalWord.Statement .pkcheck := rfl

theorem EncodesLegalWord.hkdf : EncodesLegalWord.Statement .hkdf := rfl

theorem EncodesLegalWord.hinit : EncodesLegalWord.Statement .hinit := rfl

theorem EncodesLegalWord.hupd : EncodesLegalWord.Statement .hupd := rfl

theorem EncodesLegalWord.hread : EncodesLegalWord.Statement .hread := rfl

theorem EncodesLegalWord.sha : EncodesLegalWord.Statement .sha := rfl

theorem EncodesLegalWord.zero : EncodesLegalWord.Statement .zero := rfl

end Sys2Proof.Laws
end

