-- ==== Sys2Proof/Laws/Safety.lean ====
section
/-!
SUPPORT. What the two ends of a command give in the terms of Sys2Proof/Safety.lean, and that the functions written out
there from the spec are the commands' own (spec/40_aead.md R92, R93; 42_hkdf.md R117; 60_exceptions.md R148, R150).
-/

namespace Sys2Proof.Machine

theorem State.raise_recordsError (s : State) (e : ErrCode) : s.RecordsError (s.raise e) e := by
  cases e <;> exact ⟨rfl, rfl, rfl, rfl, rfl, rfl⟩

theorem State.raise_sameRegisters (s : State) (e : ErrCode) : s.SameRegisters (s.raise e) := by simp [State.SameRegisters]

theorem State.raise_sameControls (s : State) (e : ErrCode) : s.SameControls (s.raise e) :=
  ⟨s.raise_sameRegisters e, rfl, rfl, rfl, rfl, rfl⟩

theorem State.raise_sameTranscript (s : State) (e : ErrCode) : s.SameTranscript (s.raise e) := ⟨rfl, rfl⟩

theorem State.raise_sameDmem (s : State) (e : ErrCode) : s.SameDmem (s.raise e) := fun _ _ => rfl

theorem State.complete_recordsSuccess (s : State) (n : Nat) : s.RecordsSuccess (s.complete n) n :=
  ⟨rfl, rfl, rfl, rfl, rfl, rfl⟩

theorem State.complete_sameRegisters (s : State) (n : Nat) : s.SameRegisters (s.complete n) := by
  simp [State.SameRegisters]

theorem State.complete_sameControls (s : State) (n : Nat) : s.SameControls (s.complete n) :=
  ⟨s.complete_sameRegisters n, rfl, rfl, rfl, rfl, rfl⟩

/-- A command whose meaning is `raise e` fails with `e` and changes nothing else. -/
theorem State.fails_of_raise {s : State} {i : Instr} {e : ErrCode} (h : exec i s = .next (s.raise e)) : s.Fails i e :=
  ⟨_, h, s.raise_recordsError e, s.raise_sameControls e, s.raise_sameTranscript e, s.raise_sameDmem e⟩

theorem tagWrittenOut_eq (k nc ad ct : Bytes) : tagWrittenOut k nc ad ct = aeadTag k nc ad ct := rfl

theorem xorBytes_replicate (s : Bytes) (b : Byte) : xorBytes s (List.replicate s.length b) = s.map (· ^^^ b) := by
  induction s with
  | nil => rfl
  | cons c s ih => exact congrArg (List.cons (c ^^^ b)) ih

theorem hmacK0_length (key : Bytes) : (hmacK0 key).length = 64 := by
  simp only [hmacK0, List.length_append, zeros_length]
  split
  · simp
  · omega

theorem hmacWrittenOut_eq (key data : Bytes) : hmacWrittenOut key data = hmac key data := by
  have h (b : Byte) : hmacPad key b = (hmacK0 key).map (· ^^^ b) := by
    rw [hmacPad, ← hmacK0_length key, xorBytes_replicate]
  rw [hmac, h, h]
  rfl

end Sys2Proof.Machine
end

