-- ==== Sys2Proof/Laws/SecpField.lean ====
section
/-!
SUPPORT. What `powMod` computes, and that the field prime `p` and the group order `n` of secp256k1 are prime (spec/41_ecdh.md
R102), by Lucas certificates that the kernel checks.
-/

namespace Sys2Proof.Machine

/-- `powMod m bits b e` is `b^e mod m` for every exponent below `2^bits`. -/
theorem powMod_eq (m bits b e : Nat) (h : e < 2 ^ bits) : powMod m bits b e = b ^ e % m := by
  induction bits generalizing b e with
  | zero =>
    have : e = 0 := by simpa using h
    subst this; simp [powMod]
  | succ n ih =>
    have h2 : e / 2 < 2 ^ n := by rw [Nat.pow_succ] at h; omega
    have hp : powMod m n (b * b % m) (e / 2) = (b ^ 2) ^ (e / 2) % m := by
      rw [ih _ _ h2, ← Nat.pow_mod, ← pow_two]
    unfold powMod
    split
    · next ho =>
      rw [hp, Nat.mul_mod_mod, ← pow_mul, ← pow_succ']
      congr 2; omega
    · next ho =>
      rw [hp, ← pow_mul]
      congr 2; omega

/-- Lucas' test: `g` has order `p - 1` modulo `p`, where `fs` lists the prime powers of `p - 1`. -/
theorem prime_of_cert (p g : Nat) (fs : List (Nat × Nat)) (hb : p < 2 ^ 256)
    (h1 : powMod p 256 g (p - 1) = 1 % p) (hp : 1 < p) (hprod : (fs.map fun f => f.1 ^ f.2).prod = p - 1)
    (hfs : ∀ f ∈ fs, f.1.Prime ∧ powMod p 256 g ((p - 1) / f.1) ≠ 1 % p) : p.Prime := by
  have key : ∀ e, e < 2 ^ 256 → (powMod p 256 g e = 1 % p ↔ (g : ZMod p) ^ e = 1) := by
    intro e he
    rw [powMod_eq _ _ _ _ he, ← ZMod.natCast_eq_natCast_iff' (g ^ e) 1 p]
    push_cast; rfl
  refine lucas_primality p g ((key _ (by omega)).mp h1) fun q hq hdvd => ?_
  rw [← hprod] at hdvd
  obtain ⟨a, ha, hqa⟩ := (Prime.dvd_prod_iff hq.prime).mp hdvd
  obtain ⟨f, hf, rfl⟩ := List.mem_map.mp ha
  obtain rfl : q = f.1 := (Nat.prime_dvd_prime_iff_eq hq (hfs f hf).1).mp (hq.dvd_of_dvd_pow hqa)
  exact fun h => (hfs f hf).2 ((key _ (by have := Nat.div_le_self (p - 1) f.1; omega)).mpr h)

/-- 13331831 is prime. -/
theorem prime_13331831 : Nat.Prime 13331831 := by
  refine prime_of_cert _ 13
    [ (2, 1), (5, 1), (971, 1), (1373, 1) ]
    (by decide +kernel) (by decide +kernel) (by decide +kernel) (by decide +kernel) ?_
  simp only [List.forall_mem_cons, List.not_mem_nil, false_imp_iff, implies_true, and_true]
  exact ⟨⟨by norm_num, by decide +kernel⟩, ⟨by norm_num, by decide +kernel⟩,
    ⟨by norm_num, by decide +kernel⟩, ⟨by norm_num, by decide +kernel⟩⟩

/-- 173378833005251801 is prime. -/
theorem prime_173378833005251801 : Nat.Prime 173378833005251801 := by
  refine prime_of_cert _ 6
    [ (2, 3), (5, 2), (2621, 1), (24809, 1), (13331831, 1) ]
    (by decide +kernel) (by decide +kernel) (by decide +kernel) (by decide +kernel) ?_
  simp only [List.forall_mem_cons, List.not_mem_nil, false_imp_iff, implies_true, and_true]
  exact ⟨⟨by norm_num, by decide +kernel⟩, ⟨by norm_num, by decide +kernel⟩,
    ⟨by norm_num, by decide +kernel⟩, ⟨by norm_num, by decide +kernel⟩,
    ⟨prime_13331831, by decide +kernel⟩⟩

/-- 22149492674086928081353 is prime. -/
theorem prime_221494926740_23 : Nat.Prime 22149492674086928081353 := by
  refine prime_of_cert _ 5
    [ (2, 3), (3, 1), (5323, 1), (173378833005251801, 1) ]
    (by decide +kernel) (by decide +kernel) (by decide +kernel) (by decide +kernel) ?_
  simp only [List.forall_mem_cons, List.not_mem_nil, false_imp_iff, implies_true, and_true]
  exact ⟨⟨by norm_num, by decide +kernel⟩, ⟨by norm_num, by decide +kernel⟩,
    ⟨by norm_num, by decide +kernel⟩, ⟨prime_173378833005251801, by decide +kernel⟩⟩

/-- 132896956044521568488119 is prime. -/
theorem prime_132896956044_24 : Nat.Prime 132896956044521568488119 := by
  refine prime_of_cert _ 6
    [ (2, 1), (3, 1), (22149492674086928081353, 1) ]
    (by decide +kernel) (by decide +kernel) (by decide +kernel) (by decide +kernel) ?_
  simp only [List.forall_mem_cons, List.not_mem_nil, false_imp_iff, implies_true, and_true]
  exact ⟨⟨by norm_num, by decide +kernel⟩, ⟨by norm_num, by decide +kernel⟩,
    ⟨prime_221494926740_23, by decide +kernel⟩⟩

/-- 1206781 is prime. -/
theorem prime_1206781 : Nat.Prime 1206781 := by
  refine prime_of_cert _ 10
    [ (2, 2), (3, 1), (5, 1), (20113, 1) ]
    (by decide +kernel) (by decide +kernel) (by decide +kernel) (by decide +kernel) ?_
  simp only [List.forall_mem_cons, List.not_mem_nil, false_imp_iff, implies_true, and_true]
  exact ⟨⟨by norm_num, by decide +kernel⟩, ⟨by norm_num, by decide +kernel⟩,
    ⟨by norm_num, by decide +kernel⟩, ⟨by norm_num, by decide +kernel⟩⟩

/-- 7240687 is prime. -/
theorem prime_7240687 : Nat.Prime 7240687 := by
  refine prime_of_cert _ 3
    [ (2, 1), (3, 1), (1206781, 1) ]
    (by decide +kernel) (by decide +kernel) (by decide +kernel) (by decide +kernel) ?_
  simp only [List.forall_mem_cons, List.not_mem_nil, false_imp_iff, implies_true, and_true]
  exact ⟨⟨by norm_num, by decide +kernel⟩, ⟨by norm_num, by decide +kernel⟩,
    ⟨prime_1206781, by decide +kernel⟩⟩

/-- 107590001 is prime. -/
theorem prime_107590001 : Nat.Prime 107590001 := by
  refine prime_of_cert _ 3
    [ (2, 4), (5, 4), (7, 1), (29, 1), (53, 1) ]
    (by decide +kernel) (by decide +kernel) (by decide +kernel) (by decide +kernel) ?_
  simp only [List.forall_mem_cons, List.not_mem_nil, false_imp_iff, implies_true, and_true]
  exact ⟨⟨by norm_num, by decide +kernel⟩, ⟨by norm_num, by decide +kernel⟩,
    ⟨by norm_num, by decide +kernel⟩, ⟨by norm_num, by decide +kernel⟩,
    ⟨by norm_num, by decide +kernel⟩⟩

/-- 255515944373312847190720520512484175977 is prime. -/
theorem prime_255515944373_39 : Nat.Prime 255515944373312847190720520512484175977 := by
  refine prime_of_cert _ 3
    [ (2, 3), (7, 2), (11, 1), (1627, 1), (2657, 1), (4423, 1), (41201, 1), (96557, 1), (7240687, 1),
      (107590001, 1) ]
    (by decide +kernel) (by decide +kernel) (by decide +kernel) (by decide +kernel) ?_
  simp only [List.forall_mem_cons, List.not_mem_nil, false_imp_iff, implies_true, and_true]
  exact ⟨⟨by norm_num, by decide +kernel⟩, ⟨by norm_num, by decide +kernel⟩,
    ⟨by norm_num, by decide +kernel⟩, ⟨by norm_num, by decide +kernel⟩,
    ⟨by norm_num, by decide +kernel⟩, ⟨by norm_num, by decide +kernel⟩,
    ⟨by norm_num, by decide +kernel⟩, ⟨by norm_num, by decide +kernel⟩,
    ⟨prime_7240687, by decide +kernel⟩, ⟨prime_107590001, by decide +kernel⟩⟩

/-- 205115282021455665897114700593932402728804164701536103180137503955397371 is prime. -/
theorem prime_205115282021_72 : Nat.Prime 205115282021455665897114700593932402728804164701536103180137503955397371 := by
  refine prime_of_cert _ 10
    [ (2, 1), (3, 1), (5, 1), (29, 2), (31, 1), (7723, 1), (132896956044521568488119, 1),
      (255515944373312847190720520512484175977, 1) ]
    (by decide +kernel) (by decide +kernel) (by decide +kernel) (by decide +kernel) ?_
  simp only [List.forall_mem_cons, List.not_mem_nil, false_imp_iff, implies_true, and_true]
  exact ⟨⟨by norm_num, by decide +kernel⟩, ⟨by norm_num, by decide +kernel⟩,
    ⟨by norm_num, by decide +kernel⟩, ⟨by norm_num, by decide +kernel⟩,
    ⟨by norm_num, by decide +kernel⟩, ⟨by norm_num, by decide +kernel⟩,
    ⟨prime_132896956044_24, by decide +kernel⟩, ⟨prime_255515944373_39, by decide +kernel⟩⟩

/-- The field prime `p` is prime (41_ecdh.md R102). -/
theorem secpP_prime : Nat.Prime secpP := by
  refine prime_of_cert _ 3
    [ (2, 1), (3, 1), (7, 1), (13441, 1),
      (205115282021455665897114700593932402728804164701536103180137503955397371, 1) ]
    (by decide +kernel) (by decide +kernel) (by decide +kernel) (by decide +kernel) ?_
  simp only [List.forall_mem_cons, List.not_mem_nil, false_imp_iff, implies_true, and_true]
  exact ⟨⟨by norm_num, by decide +kernel⟩, ⟨by norm_num, by decide +kernel⟩,
    ⟨by norm_num, by decide +kernel⟩, ⟨by norm_num, by decide +kernel⟩,
    ⟨prime_205115282021_72, by decide +kernel⟩⟩

/-- 4681609 is prime. -/
theorem prime_4681609 : Nat.Prime 4681609 := by
  refine prime_of_cert _ 23
    [ (2, 3), (3, 1), (97, 1), (2011, 1) ]
    (by decide +kernel) (by decide +kernel) (by decide +kernel) (by decide +kernel) ?_
  simp only [List.forall_mem_cons, List.not_mem_nil, false_imp_iff, implies_true, and_true]
  exact ⟨⟨by norm_num, by decide +kernel⟩, ⟨by norm_num, by decide +kernel⟩,
    ⟨by norm_num, by decide +kernel⟩, ⟨by norm_num, by decide +kernel⟩⟩

/-- 107361793816595537 is prime. -/
theorem prime_107361793816595537 : Nat.Prime 107361793816595537 := by
  refine prime_of_cert _ 3
    [ (2, 4), (16699, 1), (85831, 1), (4681609, 1) ]
    (by decide +kernel) (by decide +kernel) (by decide +kernel) (by decide +kernel) ?_
  simp only [List.forall_mem_cons, List.not_mem_nil, false_imp_iff, implies_true, and_true]
  exact ⟨⟨by norm_num, by decide +kernel⟩, ⟨by norm_num, by decide +kernel⟩,
    ⟨by norm_num, by decide +kernel⟩, ⟨prime_4681609, by decide +kernel⟩⟩

/-- 44706919 is prime. -/
theorem prime_44706919 : Nat.Prime 44706919 := by
  refine prime_of_cert _ 6
    [ (2, 1), (3, 1), (797, 1), (9349, 1) ]
    (by decide +kernel) (by decide +kernel) (by decide +kernel) (by decide +kernel) ?_
  simp only [List.forall_mem_cons, List.not_mem_nil, false_imp_iff, implies_true, and_true]
  exact ⟨⟨by norm_num, by decide +kernel⟩, ⟨by norm_num, by decide +kernel⟩,
    ⟨by norm_num, by decide +kernel⟩, ⟨by norm_num, by decide +kernel⟩⟩

/-- 174723607534414371449 is prime. -/
theorem prime_174723607534_21 : Nat.Prime 174723607534414371449 := by
  refine prime_of_cert _ 3
    [ (2, 3), (17, 1), (59, 1), (4051, 1), (120233, 1), (44706919, 1) ]
    (by decide +kernel) (by decide +kernel) (by decide +kernel) (by decide +kernel) ?_
  simp only [List.forall_mem_cons, List.not_mem_nil, false_imp_iff, implies_true, and_true]
  exact ⟨⟨by norm_num, by decide +kernel⟩, ⟨by norm_num, by decide +kernel⟩,
    ⟨by norm_num, by decide +kernel⟩, ⟨by norm_num, by decide +kernel⟩,
    ⟨by norm_num, by decide +kernel⟩, ⟨prime_44706919, by decide +kernel⟩⟩

/-- 545358713 is prime. -/
theorem prime_545358713 : Nat.Prime 545358713 := by
  refine prime_of_cert _ 5
    [ (2, 3), (41, 1), (59, 1), (28181, 1) ]
    (by decide +kernel) (by decide +kernel) (by decide +kernel) (by decide +kernel) ?_
  simp only [List.forall_mem_cons, List.not_mem_nil, false_imp_iff, implies_true, and_true]
  exact ⟨⟨by norm_num, by decide +kernel⟩, ⟨by norm_num, by decide +kernel⟩,
    ⟨by norm_num, by decide +kernel⟩, ⟨by norm_num, by decide +kernel⟩⟩

/-- 1627771 is prime. -/
theorem prime_1627771 : Nat.Prime 1627771 := by
  refine prime_of_cert _ 3
    [ (2, 1), (3, 1), (5, 1), (29, 1), (1871, 1) ]
    (by decide +kernel) (by decide +kernel) (by decide +kernel) (by decide +kernel) ?_
  simp only [List.forall_mem_cons, List.not_mem_nil, false_imp_iff, implies_true, and_true]
  exact ⟨⟨by norm_num, by decide +kernel⟩, ⟨by norm_num, by decide +kernel⟩,
    ⟨by norm_num, by decide +kernel⟩, ⟨by norm_num, by decide +kernel⟩,
    ⟨by norm_num, by decide +kernel⟩⟩

/-- 297159362677 is prime. -/
theorem prime_297159362677 : Nat.Prime 297159362677 := by
  refine prime_of_cert _ 2
    [ (2, 2), (3, 2), (11, 1), (461, 1), (1627771, 1) ]
    (by decide +kernel) (by decide +kernel) (by decide +kernel) (by decide +kernel) ?_
  simp only [List.forall_mem_cons, List.not_mem_nil, false_imp_iff, implies_true, and_true]
  exact ⟨⟨by norm_num, by decide +kernel⟩, ⟨by norm_num, by decide +kernel⟩,
    ⟨by norm_num, by decide +kernel⟩, ⟨by norm_num, by decide +kernel⟩,
    ⟨prime_1627771, by decide +kernel⟩⟩

/-- 29047611873442575647497758179 is prime. -/
theorem prime_290476118734_29 : Nat.Prime 29047611873442575647497758179 := by
  refine prime_of_cert _ 2
    [ (2, 1), (293, 1), (305873, 1), (545358713, 1), (297159362677, 1) ]
    (by decide +kernel) (by decide +kernel) (by decide +kernel) (by decide +kernel) ?_
  simp only [List.forall_mem_cons, List.not_mem_nil, false_imp_iff, implies_true, and_true]
  exact ⟨⟨by norm_num, by decide +kernel⟩, ⟨by norm_num, by decide +kernel⟩,
    ⟨by norm_num, by decide +kernel⟩, ⟨prime_545358713, by decide +kernel⟩,
    ⟨prime_297159362677, by decide +kernel⟩⟩

/-- 341948486974166000522343609283189 is prime. -/
theorem prime_341948486974_33 : Nat.Prime 341948486974166000522343609283189 := by
  refine prime_of_cert _ 2
    [ (2, 2), (3, 3), (109, 1), (29047611873442575647497758179, 1) ]
    (by decide +kernel) (by decide +kernel) (by decide +kernel) (by decide +kernel) ?_
  simp only [List.forall_mem_cons, List.not_mem_nil, false_imp_iff, implies_true, and_true]
  exact ⟨⟨by norm_num, by decide +kernel⟩, ⟨by norm_num, by decide +kernel⟩,
    ⟨by norm_num, by decide +kernel⟩, ⟨prime_290476118734_29, by decide +kernel⟩⟩

/-- The group order `n` is prime (41_ecdh.md R102). -/
theorem secpN_prime : Nat.Prime secpN := by
  refine prime_of_cert _ 7
    [ (2, 6), (3, 1), (149, 1), (631, 1), (107361793816595537, 1), (174723607534414371449, 1),
      (341948486974166000522343609283189, 1) ]
    (by decide +kernel) (by decide +kernel) (by decide +kernel) (by decide +kernel) ?_
  simp only [List.forall_mem_cons, List.not_mem_nil, false_imp_iff, implies_true, and_true]
  exact ⟨⟨by norm_num, by decide +kernel⟩, ⟨by norm_num, by decide +kernel⟩,
    ⟨by norm_num, by decide +kernel⟩, ⟨by norm_num, by decide +kernel⟩,
    ⟨prime_107361793816595537, by decide +kernel⟩, ⟨prime_174723607534_21, by decide +kernel⟩,
    ⟨prime_341948486974_33, by decide +kernel⟩⟩

end Sys2Proof.Machine
end

