-- ==== Sys2Proof/Laws/SecpGroup.lean ====
section
/-!
SUPPORT. The model's `pointAdd` and `pointMul` are addition and scalar multiplication in Mathlib's group of the points of
the curve `y^2 = x^3 + 7` over `F_p` (spec/41_ecdh.md R103 to R105).
-/

namespace Sys2Proof.Machine

theorem secpP_pos : 0 < secpP := by decide

/-- The field `F_p` (41_ecdh.md R102). -/
abbrev Fp := ZMod secpP

theorem secpP_fact : Fact secpP.Prime := ⟨secpP_prime⟩

theorem fieldSub_lt (a b : Nat) : fieldSub a b < secpP := Nat.mod_lt _ secpP_pos

/-- The cast to `F_p` of a residue. -/
theorem cast_mod (a : Nat) : ((a % secpP : Nat) : Fp) = (a : Fp) := ZMod.natCast_mod a secpP

/-- `fieldSub` is subtraction in `F_p`. -/
theorem cast_fieldSub (a b : Nat) : ((fieldSub a b : Nat) : Fp) = (a : Fp) - b := by
  have h : b % secpP ≤ secpP := (Nat.mod_lt _ secpP_pos).le
  rw [fieldSub, cast_mod, Nat.cast_add, Nat.cast_sub h, cast_mod]
  simp; ring

/-- `fieldInv` is the inverse in `F_p` (0 at 0). -/
theorem cast_fieldInv (a : Nat) : ((fieldInv a : Nat) : Fp) = (a : Fp)⁻¹ := by
  have := secpP_fact
  have hb : secpP - 2 < 2 ^ 256 := by decide
  rw [fieldInv, powMod_eq _ _ _ _ hb, cast_mod, Nat.cast_pow, cast_mod]
  by_cases h : (a : Fp) = 0
  · rw [h, inv_zero]; exact zero_pow (by decide)
  · refine eq_inv_of_mul_eq_one_left ?_
    rw [← pow_succ]
    have : secpP - 2 + 1 = secpP - 1 := by decide
    rw [this]
    exact ZMod.pow_card_sub_one_eq_one h

/-- The curve `y^2 = x^3 + 7` over `F_p` (41_ecdh.md R102). -/
def secpCurve : WeierstrassCurve.Affine Fp := { a₁ := 0, a₂ := 0, a₃ := 0, a₄ := 0, a₆ := 7 }

/-- Residues below `p` are equal when their casts are. -/
theorem castP_inj {a b : Nat} (ha : a < secpP) (hb : b < secpP) : (a : Fp) = b ↔ a = b := by
  rw [ZMod.natCast_eq_natCast_iff', Nat.mod_eq_of_lt ha, Nat.mod_eq_of_lt hb]

/-- The curve equation on naturals. -/
theorem equation_iff_nat (x y : Nat) :
    secpCurve.Equation (x : Fp) (y : Fp) ↔ y ^ 2 % secpP = (x ^ 3 + 7) % secpP := by
  rw [WeierstrassCurve.Affine.equation_iff, ← ZMod.natCast_eq_natCast_iff']
  simp [secpCurve]

/-- The curve has no singular point. -/
theorem secpCurve_nonsingular {x y : Fp} (h : secpCurve.Equation x y) : secpCurve.Nonsingular x y := by
  have := secpP_fact
  refine (WeierstrassCurve.Affine.equation_iff_nonsingular_of_Δ_ne_zero ?_).mp h
  have h3 : ((21168 : Nat) : Fp) ≠ ((0 : Nat) : Fp) := by
    rw [Ne, castP_inj (by decide) (by decide)]; decide
  simp only [WeierstrassCurve.Δ, WeierstrassCurve.b₂, WeierstrassCurve.b₄, WeierstrassCurve.b₆,
    WeierstrassCurve.b₈, secpCurve]
  intro h
  apply h3
  push_cast
  linear_combination -h

/-- A model point stands for a point of the curve. -/
inductive Represents : Point → secpCurve.Point → Prop
  | inf : Represents .infinity 0
  | aff (x y : Nat) (hx : x < secpP) (hy : y < secpP) (h : secpCurve.Nonsingular (x : Fp) (y : Fp)) :
     Represents (.affine x y) (.some _ _ h)

/-- Every point that the group law is on stands for a point of the curve. -/
theorem exists_represents {q : Point} (h : onCurve q = true) : ∃ P, Represents q P := by
  cases q with
  | infinity => exact ⟨0, .inf⟩
  | affine x y =>
    simp only [onCurve, Bool.and_eq_true, decide_eq_true_eq, beq_iff_eq] at h
    obtain ⟨⟨hx, hy⟩, he⟩ := h
    exact ⟨_, .aff x y hx hy (secpCurve_nonsingular ((equation_iff_nat x y).mpr he))⟩

/-- What stands for a point of the curve is a point that the group law is on. -/
theorem Represents.onCurve_eq {q : Point} {P} (h : Represents q P) : onCurve q = true := by
  cases h with
  | inf => rfl
  | aff x y hx hy h =>
    simp only [onCurve, Bool.and_eq_true, decide_eq_true_eq, beq_iff_eq]
    exact ⟨⟨hx, hy⟩, (equation_iff_nat x y).mp h.1⟩

/-- A point of the curve is stood for by one model point. -/
theorem Represents.inj {q r : Point} {P} (h : Represents q P) (h' : Represents r P) : q = r := by
  cases h with
  | inf =>
    generalize hP : (0 : secpCurve.Point) = P at h'
    cases h' with
    | inf => rfl
    | aff x y hx hy h => exact absurd hP.symm (WeierstrassCurve.Affine.Point.some_ne_zero h)
  | aff x y hx hy h =>
    generalize hP : (WeierstrassCurve.Affine.Point.some _ _ h) = P at h'
    cases h' with
    | inf => exact absurd hP (WeierstrassCurve.Affine.Point.some_ne_zero h)
    | aff x' y' hx' hy' h' =>
      rw [WeierstrassCurve.Affine.Point.some.injEq] at hP
      rw [castP_inj hx hx', castP_inj hy hy'] at hP
      rw [hP.1, hP.2]

/-- The reflected third point of a line stands for the sum. -/
theorem Represents.fromSlope (lam x1 y1 x2 : Nat) (P : secpCurve.Point) (ℓ : Fp) (hl : (lam : Fp) = ℓ)
   (h : secpCurve.Nonsingular (secpCurve.addX (x1 : Fp) x2 ℓ) (secpCurve.addY (x1 : Fp) x2 y1 ℓ))
   (hP : P = .some _ _ h) : Represents (pointFromSlope lam x1 y1 x2) P := by
  subst hl
  have hX : ((fieldSub (lam * lam) (x1 + x2) : Nat) : Fp) = secpCurve.addX (x1 : Fp) x2 lam := by
    rw [cast_fieldSub]; simp [WeierstrassCurve.Affine.addX, secpCurve]; ring
  have hY : ((fieldSub (lam * fieldSub x1 (fieldSub (lam * lam) (x1 + x2))) y1 : Nat) : Fp)
      = secpCurve.addY (x1 : Fp) x2 y1 lam := by
    rw [cast_fieldSub, Nat.cast_mul, cast_fieldSub, hX]
    simp [WeierstrassCurve.Affine.addY, WeierstrassCurve.Affine.negAddY, WeierstrassCurve.Affine.negY, secpCurve]
    ring
  have h' : secpCurve.Nonsingular ((fieldSub (lam * lam) (x1 + x2) : Nat) : Fp)
      ((fieldSub (lam * fieldSub x1 (fieldSub (lam * lam) (x1 + x2))) y1 : Nat) : Fp) := by
    rw [hX, hY]; exact h
  have : P = .some _ _ h' := by
    rw [hP, WeierstrassCurve.Affine.Point.some.injEq]; exact ⟨hX.symm, hY.symm⟩
  rw [this]
  exact .aff _ _ (fieldSub_lt _ _) (fieldSub_lt _ _) h'

open scoped Classical in
/-- `pointAdd` is addition in the group of the curve. -/
theorem Represents.add {q r : Point} {P R} [Fact secpP.Prime] (h : Represents q P) (h' : Represents r R) :
    Represents (pointAdd q r) (P + R) := by
  cases h with
  | inf => rw [zero_add]; exact h'
  | aff x1 y1 hx1 hy1 h1 =>
    cases h' with
    | inf => rw [add_zero]; exact .aff x1 y1 hx1 hy1 h1
    | aff x2 y2 hx2 hy2 h2 =>
      have hn : secpCurve.negY (x2 : Fp) y2 = - (y2 : Fp) := by
        simp [WeierstrassCurve.Affine.negY, secpCurve]
      have hsum : (y1 + y2) % secpP = 0 ↔ (y1 : Fp) = secpCurve.negY (x2 : Fp) y2 := by
        rw [hn, eq_neg_iff_add_eq_zero, ← Nat.cast_add, ZMod.natCast_eq_zero_iff, Nat.dvd_iff_mod_eq_zero]
      simp only [pointAdd]
      by_cases hx : x1 = x2
      · subst hx
        rw [if_pos rfl]
        by_cases hy : (y1 + y2) % secpP = 0
        · rw [if_pos hy, WeierstrassCurve.Affine.Point.add_of_Y_eq rfl (hsum.mp hy)]
          exact .inf
        · rw [if_neg hy]
          have hy' : ¬ (y1 : Fp) = secpCurve.negY (x1 : Fp) y2 := fun h => hy (hsum.mpr h)
          have hyy : (y1 : Fp) = y2 := WeierstrassCurve.Affine.Y_eq_of_Y_ne h1.1 h2.1 rfl hy'
          refine Represents.fromSlope _ x1 y1 x1 _ (secpCurve.slope (x1 : Fp) x1 y1 y2) ?_ _
            (WeierstrassCurve.Affine.Point.add_of_Y_ne hy')
          rw [WeierstrassCurve.Affine.slope_of_Y_ne rfl hy', cast_mod, Nat.cast_mul, cast_fieldInv, div_eq_mul_inv]
          congr 1
          · simp [secpCurve]
          · simp [WeierstrassCurve.Affine.negY, secpCurve]; ring
      · rw [if_neg hx]
        have hx' : ¬ (x1 : Fp) = x2 := by rwa [castP_inj hx1 hx2]
        refine Represents.fromSlope _ x1 y1 x2 _ (secpCurve.slope (x1 : Fp) x2 y1 y2) ?_ _
          (WeierstrassCurve.Affine.Point.add_of_X_ne hx')
        rw [WeierstrassCurve.Affine.slope_of_X_ne hx', cast_mod, Nat.cast_mul, cast_fieldInv, cast_fieldSub, cast_fieldSub,
          ← neg_sub (y1 : Fp) y2, ← neg_sub (x1 : Fp) x2, inv_neg, neg_mul_neg, div_eq_mul_inv]

open scoped Classical in
/-- `pointMulAdd` adds a multiple. -/
theorem Represents.mulAdd [Fact secpP.Prime] (bits k : Nat) (hk : k < 2 ^ bits) {acc q : Point} {A P}
    (ha : Represents acc A) (hq : Represents q P) :
    Represents (pointMulAdd bits k acc q) (A + k • P) := by
  induction bits generalizing k acc q A P with
  | zero =>
    have : k = 0 := by simpa using hk
    subst this; simpa [pointMulAdd] using ha
  | succ n ih =>
    unfold pointMulAdd
    by_cases h0 : k = 0
    · subst h0; simpa using ha
    · rw [if_neg h0]
      have hk2 : k / 2 < 2 ^ n := by rw [Nat.pow_succ] at hk; omega
      by_cases ho : k % 2 = 1
      · rw [if_pos ho]
        have := ih (k / 2) hk2 (ha.add hq) (hq.add hq)
        convert this using 1
        have : k = 2 * (k/2) + 1 := by omega
        conv_lhs => rw [this]
        rw [add_smul, mul_comm, mul_smul, two_smul, one_smul]; abel
      · rw [if_neg ho]
        have := ih (k / 2) hk2 ha (hq.add hq)
        convert this using 1
        have : k = 2 * (k/2) := by omega
        conv_lhs => rw [this]
        rw [mul_comm, mul_smul, two_smul]

open scoped Classical in
/-- `pointMul` is scalar multiplication in the group of the curve. -/
theorem Represents.mul [Fact secpP.Prime] (k : Nat) {q : Point} {P} (hq : Represents q P) :
    Represents (pointMul k q) (k • P) := by
  have h := Represents.mulAdd _ k Nat.lt_log2_self .inf hq
  rw [zero_add] at h
  exact h

end Sys2Proof.Machine
end

