-- ==== Sys2Proof/Laws/Step.lean ====
section
/-!
SUPPORT. Everything one step of the machine can do, said once: the engine completes a command, or the host performs one
transaction, or a reset acts (spec/00_scope.md R19; 44_control.md R136).
-/

namespace Sys2Proof.Machine

/-- How a step ends. `registers` covers reads, bus errors, ignored writes, the writes of CMD and of the operand registers,
and the step of a machine in which neither agent has one. -/
inductive StepEnd (s : State) : State → Prop where
  | completed (i : Instr) (t : State) (hc : s.NextIsCompletion) (hd : decode (joinWord s.latched.commandWord) = .ok i)
      (he : exec i s = .next t) (hx : CommandEnd i s t) : StepEnd s t
  | illegal (r : Reject) (hc : s.NextIsCompletion) (hd : decode (joinWord s.latched.commandWord) = .error r) :
      StepEnd s (s.raise .illegal)
  | reset (t : State) (hr : s.NextIsReset) (hv : t.AtResetValues) (hz : t.dmemsz = s.dmemsz)
      (hm : t.dmem.cells = []) : StepEnd s t
  | start (v : Word) (rest : List HostEvent) (r : List Reply)
      (ht : s.turn = .host (.access (.write .word 0x004 v)) rest)
      (h1 : v.getLsbD 1 = false) (h0 : v.getLsbD 0 = true) :
      StepEnd s
        { State.start { s with irqEn := v.getLsbD 2, pending := rest, wait := s.wait - 1 } with replies := r }
  | irqEnable (v : Word) (rest : List HostEvent) (r : List Reply)
      (ht : s.turn = .host (.access (.write .word 0x004 v)) rest)
      (h1 : v.getLsbD 1 = false) (h0 : v.getLsbD 0 = false) :
      StepEnd s { s with irqEn := v.getLsbD 2, pending := rest, wait := s.wait - 1, replies := r }
  | status (v : Word) (rest : List HostEvent) (r : List Reply)
      (ht : s.turn = .host (.access (.write .word 0x008 v)) rest) :
      StepEnd s { State.writeStatus { s with pending := rest, wait := s.wait - 1 } v with replies := r }
  | registers (rest : List HostEvent) (w : Nat) (r : List Reply)
      (cmd src len key ad adlen dst ctrLo ctrHi : Word) (ht : s.turn ≠ .engine) (hr : ¬ s.NextIsReset)
      (hs : ¬ s.NextIsStart) :
      StepEnd s
        { s with
          pending := rest, wait := w, replies := r, cmd := cmd, src := src, len := len, key := key, ad := ad
          adlen := adlen, dst := dst, ctrLo := ctrLo, ctrHi := ctrHi }
  | dmemWrite (w : Width) (o : BitVec 21) (v : Word) (x n : Nat) (rest : List HostEvent) (r : List Reply)
      (hi : s.phase = .idle) (ht : s.turn = .host (.access (.write w o v)) rest) (hw : w.bytes = some n)
      (ho : o.toNat = 0x100000 + x) (hx : x < s.dmemsz.toNat) (ha : x % n = 0) :
      StepEnd s
        { s with
          pending := rest, wait := s.wait - 1, replies := r, dmem := s.dmem.writeBytes x (leBytes n v.toNat) }

/-- What a step that answers `next t` did. -/
theorem step_ends (s t : State) (h : step s = .next t) : StepEnd s t := by
  rcases step_cases s with ⟨ht, i, hf, he⟩ | ⟨ht, ⟨r, hf⟩, he⟩ | ⟨e, rest, ht, he⟩ | ⟨ht, he⟩
  · rw [State.fetch] at hf
    rw [he] at h
    exact .completed i t ((s.turn_engine_iff).mp ht) (by rw [decode, splitWord_joinWord]; exact hf) h (exec_cases i s t h)
  · rw [State.fetch] at hf
    rw [he] at h
    cases h
    exact .illegal r ((s.turn_engine_iff).mp ht) (by rw [decode, splitWord_joinWord]; exact hf)
  · rw [he] at h
    injection h with h
    cases e with
    | powerOn =>
      refine .reset t (.inl ⟨rest, ht⟩) ?_ ?_ ?_ <;> rw [← h] <;> simp [State.hostStep, State.AtResetValues, State.irq]
    | access a =>
      have hn : ¬ s.turn = .engine := by simp [ht]
      rcases State.perform_cases { s with pending := rest, wait := s.wait - 1} a with
        ⟨w, o, rfl, hp⟩ | ⟨o, v, rfl, h1, h2, hp⟩ | ⟨w, o, v, x, n, rfl, h1, h2, h3, h4, hp⟩ | ⟨w, o, v, rfl, hp⟩
      · rw [State.hostStep, hp] at h
        rw [← h]
        refine .registers rest _ _ s.cmd s.src s.len s.key s.ad s.adlen s.dst s.ctrLo s.ctrHi hn ?_ ?_
        · rintro (⟨r, h⟩ | ⟨v, ⟨r, h⟩, -⟩) <;> simp [ht] at h
        · rintro ⟨v, ⟨r, h⟩, -⟩; simp [ht] at h
      · rw [State.hostStep, hp] at h
        by_cases hc : regAt o.toNat = .ctrl
        · have ho4 : o = 4 := by apply BitVec.eq_of_toNat_eq; rw [(regAt_eq_ctrl _).mp hc]; rfl
          subst ho4
          simp only [hc, State.writeReg, State.writeCtrl] at h
          by_cases hb1 : v.getLsbD 1 = true
          · rw [if_pos hb1] at h
            refine .reset t (.inr ⟨v, ⟨rest, ht⟩, hb1⟩) ?_ ?_ ?_ <;> rw [← h] <;> simp [State.AtResetValues, State.irq]
          · rw [if_neg hb1] at h
            by_cases hb0 : v.getLsbD 0 = true
            · rw [if_pos hb0] at h
              rw [← h]
              exact .start v rest _ ht (by simpa using hb1) hb0
            · rw [if_neg hb0] at h
              rw [← h]
              exact .irqEnable v rest _ ht (by simpa using hb1) (by simpa using hb0)
        · by_cases hs : regAt o.toNat = .status
          · have ho4 : o = 8 := by apply BitVec.eq_of_toNat_eq; rw [(regAt_eq_status _).mp hs]; rfl
            subst ho4
            simp only [hs, State.writeReg] at h
            rw [← h]
            exact .status v rest _ ht
          · have ho : o ≠ 4 := by rintro rfl; exact hc rfl
            have hr1 : ¬ s.NextIsReset := by
              rintro (⟨r, h⟩ | ⟨v, ⟨r, h⟩, -⟩) <;> simp [ht] at h
              exact ho h.1.1
            have hr2 : ¬ s.NextIsStart := by
              rintro ⟨v, ⟨r, h⟩, -⟩; simp [ht] at h; exact ho h.1.1
            generalize regAt o.toNat = r at h hc hs
            rw [← h]
            cases r <;>
              first
              | exact absurd rfl hc
              | exact absurd rfl hs
              | exact .registers rest _ _ _ _ _ _ _ _ _ _ _ hn hr1 hr2
      · rw [State.hostStep, hp] at h
        rw [← h]
        refine .dmemWrite w o v x n rest _ ?_ ht h1 h2 h3 h4
        rcases ((s.turn_host_iff _ _).mp ht).2 with h5 | h5
        · exact h5
        · by_contra hidle
          have : s.held (.access (.write w o v)) = true := by
            rw [State.held_access]
            refine ⟨?_, ?_, ?_⟩
            · cases hp : s.phase; exact absurd hp hidle; rfl
            · simp [Access.offset, h2]
            · simp [Access.offset, h2]; exact h3
          rw [this] at h5; simp at h5
      · by_cases ho : w = .word ∧ o = 4
        · obtain ⟨rfl, rfl⟩ := ho
          exfalso
          have : (State.perform { s with pending := rest, wait := s.wait - 1 } (.write .word 4 v)).replies.head?
              = some .ack := by
            simp [State.perform, State.busWrite, State.accessReg, State.target, regAt]
          rw [hp] at this; simp at this
        rw [State.hostStep, hp] at h
        rw [← h]
        refine .registers rest _ _ s.cmd s.src s.len s.key s.ad s.adlen s.dst s.ctrLo s.ctrHi hn ?_ ?_
        · rintro (⟨r, h⟩ | ⟨v, ⟨r, h⟩, -⟩) <;> simp [ht] at h
          exact ho ⟨h.1.1, h.1.2.1⟩
        · rintro ⟨v, ⟨r, h⟩, -⟩; simp [ht] at h; exact ho ⟨h.1.1, h.1.2.1⟩
  · rw [he] at h; cases h
    refine .registers s.pending s.wait s.replies s.cmd s.src s.len s.key s.ad s.adlen s.dst s.ctrLo s.ctrHi
      (by simp [ht]) ?_ ?_
    · rintro (⟨r, h⟩ | ⟨v, ⟨r, h⟩, -⟩) <;> simp [ht] at h
    · rintro ⟨v, ⟨r, h⟩, -⟩; simp [ht] at h

end Sys2Proof.Machine
end

