-- ==== Sys2Proof/Tests/Slice0.lean ====
section
/-!
SUPPORT. The model's own tests: the checks of WellFormed, decoding of words written out from spec/30_encoding.md R70 and
R76, one step of each command on vectors of spec/95_test_vectors.md, host accesses, and a witness for the hypotheses of
each statement.
-/

namespace Sys2Proof.Tests

open Sys2Proof.Machine

-- one test after another: many kernel evaluations at once need more memory than a check has
set_option Elab.async false

/-! ### WellFormed: each check refuses an ill-formed command word -/

theorem test_wellFormed_accepts : CommandWord.wellFormed { op := 0x02, adh := true, rsv := 0 } = true := by decide

theorem test_wellFormed_refuses_reserved :
    CommandWord.reservedZero { op := 0x00, adh := false, rsv := 1 } = false
      ∧ CommandWord.wellFormed { op := 0x00, adh := false, rsv := 1 } = false := by decide

theorem test_wellFormed_refuses_unassigned :
    CommandWord.opAssigned { op := 0x0C, adh := false, rsv := 0 } = false
      ∧ CommandWord.wellFormed { op := 0x0C, adh := false, rsv := 0 } = false := by decide

theorem test_wellFormed_refuses_adh :
    CommandWord.adhAllowed { op := 0x03, adh := true, rsv := 0 } = false
      ∧ CommandWord.wellFormed { op := 0x03, adh := true, rsv := 0 } = false := by decide

/-! ### Decode: RSV (23 bits), ADH (1 bit), OP (8 bits), written out from R70 and the table of R76 -/

/-- A word from its written-out fields, most significant first. -/
def word (rsv : BitVec 23) (adh : BitVec 1) (op : BitVec 8) : Word := rsv ++ adh ++ op

theorem test_decode_nop : decode (word 0 0 0b00000000) = .ok .nop := by decide
theorem test_decode_aeadEnc : decode (word 0 0 0b00000001) = .ok (.aeadEnc .region) := by decide
theorem test_decode_aeadEnc_adh : decode (word 0 1 0b00000001) = .ok (.aeadEnc .transcript) := by decide
theorem test_decode_aeadDec : decode (word 0 0 0b00000010) = .ok (.aeadDec .region) := by decide
theorem test_decode_aeadDec_adh : decode (word 0 1 0b00000010) = .ok (.aeadDec .transcript) := by decide
theorem test_decode_ecdh : decode (word 0 0 0b00000011) = .ok .ecdh := by decide
theorem test_decode_ecpub : decode (word 0 0 0b00000100) = .ok .ecpub := by decide
theorem test_decode_pkcheck : decode (word 0 0 0b00000101) = .ok .pkcheck := by decide
theorem test_decode_hkdf : decode (word 0 0 0b00000110) = .ok .hkdf := by decide
theorem test_decode_hinit : decode (word 0 0 0b00000111) = .ok .hinit := by decide
theorem test_decode_hupd : decode (word 0 0 0b00001000) = .ok .hupd := by decide
theorem test_decode_hread : decode (word 0 0 0b00001001) = .ok .hread := by decide
theorem test_decode_sha : decode (word 0 0 0b00001010) = .ok .sha := by decide
theorem test_decode_zero : decode (word 0 0 0b00001011) = .ok .zero := by decide

/-- Vectors C6, C6c, C6d, C6e: the order of the tests of R78. -/
theorem test_decode_rejects :
    decode 0x0000000C = .error (.unassignedOp 0x0C) ∧ decode 0x000000FF = .error (.unassignedOp 0xFF)
      ∧ decode 0x00000100 = .error (.adhNotAllowed 0x00) ∧ decode 0x00000103 = .error (.adhNotAllowed 0x03)
      ∧ decode 0x0000010B = .error (.adhNotAllowed 0x0B) ∧ decode 0x00000200 = .error .reservedBits
      ∧ decode 0x80000001 = .error .reservedBits := by decide

/-- R76: `OP` for ADH = 0, `OP | 0x100` for ADH = 1. -/
theorem test_encode_words :
    encode (.aeadEnc .region) = 0x00000001 ∧ encode (.aeadDec .transcript) = 0x00000102 ∧ encode .zero = 0x0000000B := by
  decide

/-! ### One step of each command, on vectors of 95_test_vectors.md -/

/-- A BUSY state with the operands `l`, DMEM zero but for the given loads. -/
def testState (l : Latched) (loads : List (Nat × Bytes)) : State :=
  { State.reset.softReset with
    phase := .busy
    latched := l
    dmem := loads.foldl (fun m p => m.writeBytes p.1 p.2) { fill := .zeroed, cells := [] } }

/-- The state after a step, if there is one. -/
def nextOf : Host.Outcome State Fault Refusal → Option State
  | .next t => some t
  | .fault _ => none
  | .refused _ => none

/-- STATUS and OUTLEN after a step, and `n` DMEM bytes from address `a` on. -/
def seen (o : Host.Outcome State Fault Refusal) (a n : Nat) : Option (Word × Word × Bytes) :=
  (nextOf o).map fun t => (t.statusWord, t.outlen, t.dmem.readBytes a n)

/-- `H` after a step. -/
def hashAfter (o : Host.Outcome State Fault Refusal) : Option Bytes := (nextOf o).map fun t => t.h.toList

/-- The key K of section 2.2: `000102..1f`. -/
def keyK : Bytes := beBytes 32 0x000102030405060708090a0b0c0d0e0f101112131415161718191a1b1c1d1e1f

/-- The compressed base point, E1. -/
def pubG : Bytes := beBytes 33 0x0279be667ef9dcbbac55a06295ce870b07029bfcdb2dce28d959f2815b16f81798

/-- C1. -/
theorem test_nop : seen (exec .nop (testState Latched.initial [])) 0 0 = some (0x00000012, 0, []) := by decide

/-- A2's plaintext, and what it encrypts to. -/
def textA2 : Bytes := beBytes 17 0x404142434445464748494a4b4c4d4e4f50
def sealedA2 : Bytes := beBytes 33 0xb008efa7ef7cac5f2ce260873f352ff7b0b70ea07ff6ddee1ee1e6b9a07e4c768f

/-- A2: 3 bytes of AD and 17 of plaintext, so that both paddings and both lengths of the tag's input matter. -/
theorem test_aeadEnc_A2 :
    seen (exec (.aeadEnc .region)
        (testState
          { Latched.initial with
            op := 0x01, dst := 0x80, src := 0x30, len := 17, ad := 0x20, adlen := 3, ctr := 0x0102030405060708 }
          [(0, keyK), (0x20, [0x61, 0x62, 0x63]), (0x30, textA2)])) 0x80 33
      = some (0x00010012, 33, sealedA2) := by decide +kernel

/-- A11b: a zero-length region beyond `DMEM_BYTES`. -/
theorem test_aeadEnc_A11b :
    seen (exec (.aeadEnc .region) (testState { Latched.initial with op := 0x01, dst := 0x100, ad := 0x20001 } [])) 0x100 4
      = some (0x00010214, 0, [0, 0, 0, 0]) := by decide +kernel

/-- A2d. -/
theorem test_aeadDec_A2d :
    seen (exec (.aeadDec .region)
        (testState
          { Latched.initial with
            op := 0x02, dst := 0xC0, src := 0x80, len := 33, ad := 0x20, adlen := 3, ctr := 0x0102030405060708 }
          [(0, keyK), (0x20, [0x61, 0x62, 0x63]), (0x80, sealedA2)])) 0xC0 18
      = some (0x00020012, 17, textA2 ++ [0]) := by decide +kernel

/-- P4 steps 2 and 3: the tag's last bit flipped. -/
theorem test_aeadDec_P4 :
    seen (exec (.aeadDec .region)
        (testState { Latched.initial with op := 0x02, dst := 0x80, src := 0x40, len := 16, ad := 0x20, ctr := 7 }
          [(0, keyK), (0x40, beBytes 16 0x2e92aeb2bd8901ba4a3dfe80921b69d3), (0x80, beBytes 4 0xaaaaaaaa)])) 0x80 4
      = some (0x00020414, 0, beBytes 4 0xaaaaaaaa) := by decide +kernel

/-- E12. -/
theorem test_ecdh_E12 :
    seen (exec .ecdh
        (testState { Latched.initial with op := 0x03, dst := 0x340, src := 0x100 } [(0, beBytes 32 1), (0x100, pubG)])) 0x340 32
      = some (0x00030012, 32, beBytes 32 0x0f715baf5d4c2ed329785cef29e562f73488c8a2bb9dbc5700b361d54b9b0554) := by
  decide +kernel

/-- E13: the public key is checked before the scalar. -/
theorem test_ecdh_E13 :
    seen (exec .ecdh
        (testState { Latched.initial with op := 0x03, dst := 0x340, src := 0x200, key := 0x60 } [(0x200, [0x04])])) 0x340 2
      = some (0x00030514, 0, [0, 0]) := by decide +kernel

/-- E3. -/
theorem test_ecpub_E3 :
    seen (exec .ecpub (testState { Latched.initial with op := 0x04, dst := 0x180 } [(0, beBytes 32 2)])) 0x180 33
      = some (0x00040012, 33, beBytes 33 0x02c6047f9441ed7d6d3045406e95c07cd85c778e4b8cef3ca7abac09b95c709ee5) := by
  decide +kernel

/-- E5: the scalar `n` is not reduced. -/
theorem test_ecpub_E5 :
    seen (exec .ecpub (testState { Latched.initial with op := 0x04, dst := 0x1C0 } [(0, beBytes 32 secpN)])) 0x1C0 2
      = some (0x00040614, 0, [0, 0]) := by decide +kernel

/-- E11: `-G` is a valid public key. -/
theorem test_pkcheck_E11 :
    seen (exec .pkcheck
        (testState { Latched.initial with op := 0x05, src := 0x300 } [(0x300, 0x03 :: pubG.drop 1)])) 0 0
      = some (0x00050012, 0, []) := by decide +kernel

/-- E9: x = 0 is on no point. -/
theorem test_pkcheck_E9 :
    seen (exec .pkcheck (testState { Latched.initial with op := 0x05, src := 0x280 } [(0x280, [0x02])])) 0 0
      = some (0x00050514, 0, []) := by decide +kernel

/-- K1. -/
theorem test_hkdf_K1 :
    (seen (exec .hkdf (testState { Latched.initial with op := 0x06, dst := 0x100 } [])) 0x100 64)
      = some (0x00060012, 64,
          beBytes 32 0xeb70f01dede9afafa449eee1b1286504e1f62388b3f7dd4f956697b0e828fe18
            ++ beBytes 32 0x1e59c2ec0fe6e7e7ac2613b6ab65342a83379969da234240cded3777914db907) := by decide +kernel

/-- K3. -/
theorem test_hkdf_K3 :
    seen (exec .hkdf (testState { Latched.initial with op := 0x06, dst := 0x1FFC1, src := 0x40, len := 32 } [])) 0x1FFC1 2
      = some (0x00060214, 0, [0, 0]) := by decide +kernel

/-- The state after T2: `H` = `SHA256(empty)`, H_EMPTY = 0. -/
def stateT2 (l : Latched) : State :=
  { testState l [] with
    h := ⟨(beBytes 32 0xe3b0c44298fc1c149afbf4c8996fb92427ae41e4649b934ca495991b7852b855).toArray, by simp [beBytes, leBytes]⟩
    hEmpty := false }

/-- T7. -/
theorem test_hinit :
    (nextOf (exec .hinit (stateT2 { Latched.initial with op := 0x07 }))).map (fun t => (t.statusWord, t.h.toList))
      = some (0x00070012, zeros 32) := by decide +kernel

/-- T2: the first update hashes the data alone. -/
theorem test_hupd_T2 :
    hashAfter (exec .hupd (testState { Latched.initial with op := 0x08 } []))
      = some (beBytes 32 0xe3b0c44298fc1c149afbf4c8996fb92427ae41e4649b934ca495991b7852b855) := by decide +kernel

/-- T3: the second update hashes the transcript with the data. -/
theorem test_hupd_T3 :
    hashAfter (exec .hupd (stateT2 { Latched.initial with op := 0x08 }))
      = some (beBytes 32 0x5df6e0e2761359d30a8275058e299fcc0381534545f55cf43e41983f5d4c9456) := by decide +kernel

/-- HREAD after T2 (R133). -/
theorem test_hread :
    seen (exec .hread (stateT2 { Latched.initial with op := 0x09, dst := 0x100 })) 0x100 32
      = some (0x00090002, 32, beBytes 32 0xe3b0c44298fc1c149afbf4c8996fb92427ae41e4649b934ca495991b7852b855) := by
  decide +kernel

/-- S4: the source is read before the destination is written. -/
theorem test_sha_S4 :
    seen (exec .sha
        (testState { Latched.initial with op := 0x0A, dst := 0x200, src := 0x200, len := 3 } [(0x200, [0x61, 0x62, 0x63])]))
        0x200 32
      = some (0x000A0012, 32, beBytes 32 0xba7816bf8f01cfea414140de5dae2223b00361a396177a9cb410ff61f20015ad) := by
  decide +kernel

/-- S5c: no 32-bit wrap. -/
theorem test_sha_S5c :
    seen (exec .sha (testState { Latched.initial with op := 0x0A, dst := 0x100, src := 0xFFFFFFFF, len := 1 } [])) 0x100 1
      = some (0x000A0214, 0, [0]) := by decide +kernel

/-- C3. -/
theorem test_zero_C3 :
    seen (exec .zero
        (testState { Latched.initial with op := 0x0B, dst := 0x100, len := 4 } [(0x100, List.replicate 8 0x5a)])) 0x100 8
      = some (0x000B0012, 4, [0, 0, 0, 0, 0x5a, 0x5a, 0x5a, 0x5a]) := by decide +kernel

/-- P4 step 6. -/
theorem test_zero_P4 :
    seen (exec .zero (testState { Latched.initial with op := 0x0B, dst := 0x1FFF0, len := 0x11 } [])) 0x1FFF0 1
      = some (0x000B0214, 0, [0]) := by decide +kernel

/-- The numbers of the table of R148. -/
theorem test_error_codes :
    [ErrCode.illegal, .bounds, .malformed, .authFail, .invalidPubkey, .invalidSeckey].map ErrCode.code
      = [0x01, 0x02, 0x03, 0x04, 0x05, 0x06] := by decide

/-- A13: ILLEGAL comes before MALFORMED, and LASTOP = 0x02. -/
theorem test_illegal_A13 :
    seen (step (State.reset.withFetchWord 32 0x00000202)) 0 0 = some (0x00020114, 0, []) := by decide

/-- A8: MALFORMED. -/
theorem test_malformed_A8 :
    seen (step (State.withFetchWord (testState { Latched.initial with len := 15 } []) 32 0x02)) 0 0
      = some (0x00020314, 0, []) := by decide +kernel

/-! ### The host's accesses, vectors B1 to B8 and C7 to C10 -/

/-- B2 to B4. -/
theorem test_bus_mixed_widths :
    let s := (State.reset.busWrite .word 0x100000 0x11223344).1
    s.dmem.readBytes 0 4 = [0x44, 0x33, 0x22, 0x11] ∧ s.busRead .byte 0x100001 = .data 0x33
      ∧ s.busRead .half 0x100002 = .data 0x1122 := by decide +kernel

/-- B5, B6. -/
theorem test_bus_errors :
    State.reset.busRead .byte 0x008 = .busError ∧ State.reset.busRead .word 0x00A = .busError
      ∧ State.reset.busRead .word 0x001000 = .busError ∧ State.reset.busRead .word 0x120000 = .busError
      ∧ State.reset.busRead .word 0x100002 = .busError := by decide +kernel

/-- C7, C7b: START, then START while BUSY. -/
theorem test_start_twice :
    let s := (State.reset.busWrite .word 0x004 0x5).1
    let t := (s.busWrite .word 0x004 0x5).1
    s.statusWord = 0x00000011 ∧ s.irq = false ∧ t.statusWord = 0x00000019 ∧ t.latched = s.latched := by
  refine ⟨rfl, rfl, rfl, rfl⟩

/-- C7c, C7d: completion with OVR set, then W1C. -/
theorem test_completion_and_w1c :
    let s := (({ (State.reset.busWrite .word 0x004 0x5).1 with ovr := true } : State).complete 0)
    let t := (s.busWrite .word 0x008 0xA).1
    s.statusWord = 0x0000001A ∧ s.irq = true ∧ t.statusWord = 0x00000010 ∧ t.irq = false := by
  refine ⟨rfl, rfl, rfl, rfl⟩

/-- C9, C10. -/
theorem test_soft_reset_wins :
    let s := ((testState { Latched.initial with len := 5 } [(0, [1, 2])]).busWrite .word 0x004 0x3).1
    s.statusWord = 0x00000010 ∧ s.phase = .idle ∧ s.dmem.cells = [] := by decide +kernel

/-- The three resets in the order of 10_state.md R21: the STATUS, DMEMSZ and ID of B1. -/
theorem test_reset_registers :
    State.reset.busRead .word 0x000 = .data 0x4C430007 ∧ State.reset.busRead .word 0x008 = .data 0x00000010
      ∧ State.reset.busRead .word 0x034 = .data 0x00020000 ∧ State.reset.busRead .word 0x038 = .data 0 := by decide +kernel

/-! ### Witnesses: concrete states that meet the hypotheses of the statements -/

/-- Every region ends at the last DMEM byte: an empty AD at `DMEM_BYTES` (A11), LEN = 16. -/
def edgeState : State :=
  testState
    { Latched.initial with
      src := 0x1FFF0, len := 16, key := 0x1FFE0, ad := 0x20000, adlen := 0, dst := 0x1FFE0 } []

/-- Every region of every command is out of range, the AD by one byte. -/
def outState : State :=
  testState
    { Latched.initial with src := 0x20000, len := 16, key := 0x20000, ad := 0x20000, adlen := 1, dst := 0x20000 } []

/-- A state with one host event to come. -/
def hostState (p : Phase) (w : Nat) (e : HostEvent) : State :=
  { testState Latched.initial [] with phase := p, wait := w, pending := [e] }

/-- A 32-bit host write. -/
def hostWrite (o : BitVec 21) (v : Word) : HostEvent := .access (.write .word o v)

theorem witness_IllegalWordsRaiseIllegal :
    ∀ w ∈ [(0x0C : Word), 0xFF, 0x100, 0x103, 0x10B, 0x200, 0x80000000],
      (∃ r, decode w = .error r) ∧ (State.reset.withFetchWord 32 w.toNat).NextIsCompletion
        ∧ joinWord (State.reset.withFetchWord 32 w.toNat).latched.commandWord = w := by
  simp only [List.forall_mem_cons, List.not_mem_nil, false_imp_iff, implies_true, and_true]
  refine ⟨?_, ?_, ?_, ?_, ?_, ?_, ?_⟩ <;> exact ⟨⟨_, rfl⟩, ⟨rfl, .inl rfl⟩, by decide⟩

theorem witness_StepRunsLatchedCommand :
    (State.reset.withFetchWord 32 0x0B).NextIsCompletion
      ∧ decode (joinWord (State.reset.withFetchWord 32 0x0B).latched.commandWord) = .ok .zero
      ∧ (hostState .busy 3 (.access (.read .byte 0x100000))).NextIsCompletion := by
  refine ⟨⟨rfl, .inl rfl⟩, by decide, ⟨rfl, .inr ?_⟩⟩
  simp only [hostState, List.head?_cons, Option.some.injEq]
  rintro e rfl
  decide

theorem witness_AeadEncStoresCiphertextAndTag :
    edgeState.Fits edgeState.latched.key 32 ∧ edgeState.Fits edgeState.latched.src edgeState.latched.len.toNat
      ∧ edgeState.Fits edgeState.latched.ad edgeState.latched.adlen.toNat
      ∧ edgeState.Fits edgeState.latched.dst (edgeState.latched.len.toNat + 16) := by
  unfold State.Fits; decide +kernel

/-- A1's tag at 0x40. -/
def tagState (tag : Nat) : State :=
  testState { Latched.initial with dst := 0x20000, src := 0x40, len := 16, ad := 0x20000, ctr := 7 }
    [(0, keyK), (0x40, beBytes 16 tag)]

theorem witness_AeadDecStoresVerifiedPlaintext :
    let s := tagState 0x2e92aeb2bd8901ba4a3dfe80921b69d2
    (s.Fits s.latched.key 32 ∧ s.Fits s.latched.src s.latched.len.toNat
      ∧ s.Fits s.latched.ad s.latched.adlen.toNat ∧ s.Fits s.latched.dst (s.latched.len.toNat - 16))
    ∧ s.dmem.readBytes s.latched.src.toNat s.latched.len.toNat
        = [] ++ tagWrittenOut (s.dmem.readBytes s.latched.key.toNat 32) (nonce s.latched.ctr)
            (s.dmem.readBytes s.latched.ad.toNat s.latched.adlen.toNat) [] := by
  unfold State.Fits; decide +kernel

theorem witness_AeadDecRejectsWrongTag :
    let s := tagState 0x2e92aeb2bd8901ba4a3dfe80921b69d3
    let tag := beBytes 16 0x2e92aeb2bd8901ba4a3dfe80921b69d3
    (s.Fits s.latched.key 32 ∧ s.Fits s.latched.src s.latched.len.toNat
      ∧ s.Fits s.latched.ad s.latched.adlen.toNat ∧ s.Fits s.latched.dst (s.latched.len.toNat - 16))
    ∧ tag.length = 16 ∧ s.dmem.readBytes s.latched.src.toNat s.latched.len.toNat = [] ++ tag
    ∧ tag ≠ tagWrittenOut (s.dmem.readBytes s.latched.key.toNat 32) (nonce s.latched.ctr)
        (s.dmem.readBytes s.latched.ad.toNat s.latched.adlen.toNat) [] := by
  unfold State.Fits; decide +kernel

/-- LEN = 15 and LEN = 0, the ends of the range (A8, A8b). -/
theorem witness_AeadDecRejectsShortInput :
    (testState { Latched.initial with len := 15 } []).latched.len.toNat < 16
      ∧ (testState { Latched.initial with len := 0, key := 0x1FFF0 } []).latched.len.toNat < 16 := by decide

/-- The compressed base point in the last 33 bytes before 0x1FFE0, a scalar in the last 32. -/
def keyState (k : Nat) (pub : Bytes) : State :=
  testState { Latched.initial with src := 0x1FFBF, key := 0x1FFE0, dst := 0x1FFDF } [(0x1FFBF, pub), (0x1FFE0, beBytes 32 k)]

/-- The scalars 1 and `n - 1`, the ends of the range. -/
theorem witness_EcdhStoresSharedSecret :
    ∀ k ∈ [1, secpN - 1],
      let s := keyState k pubG
      (s.Fits s.latched.src 33 ∧ s.Fits s.latched.key 32 ∧ s.Fits s.latched.dst 32)
      ∧ decompress (s.dmem.readBytes s.latched.src.toNat 33) = some (.affine secpGx secpGy)
      ∧ 1 ≤ beInt (s.dmem.readBytes s.latched.key.toNat 32)
      ∧ beInt (s.dmem.readBytes s.latched.key.toNat 32) ≤ secpN - 1 := by
  unfold State.Fits; decide +kernel

theorem witness_EcpubStoresPublicKey :
    ∀ k ∈ [1, secpN - 1],
      let s := keyState k pubG
      (s.Fits s.latched.key 32 ∧ s.Fits s.latched.dst 33)
      ∧ 1 ≤ beInt (s.dmem.readBytes s.latched.key.toNat 32)
      ∧ beInt (s.dmem.readBytes s.latched.key.toNat 32) ≤ secpN - 1 := by
  unfold State.Fits; decide +kernel

theorem witness_PkcheckAcceptsValidKey :
    (keyState 1 pubG).Fits (keyState 1 pubG).latched.src 33
      ∧ (decompress ((keyState 1 pubG).dmem.readBytes (keyState 1 pubG).latched.src.toNat 33)).isSome = true := by
  unfold State.Fits; decide +kernel

theorem witness_InvalidPublicKeysAreRejected :
    let s := keyState 0 (0x04 :: pubG.drop 1)
    (s.Fits s.latched.src 33 ∧ s.Fits s.latched.key 32 ∧ s.Fits s.latched.dst 32)
      ∧ decompress (s.dmem.readBytes s.latched.src.toNat 33) = none := by
  unfold State.Fits; decide +kernel

/-- The scalars 0 and `n`, the boundary values. -/
theorem witness_InvalidScalarsAreRejected :
    ∀ k ∈ [0, secpN],
      let s := keyState k pubG
      (s.Fits s.latched.src 33 ∧ s.Fits s.latched.key 32 ∧ s.Fits s.latched.dst 33 ∧ s.Fits s.latched.dst 32)
      ∧ (beInt (s.dmem.readBytes s.latched.key.toNat 32) = 0 ∨ secpN ≤ beInt (s.dmem.readBytes s.latched.key.toNat 32))
      ∧ (decompress (s.dmem.readBytes s.latched.src.toNat 33)).isSome = true := by
  unfold State.Fits; decide +kernel

/-- K3b: the output ends at the last byte. -/
theorem witness_HkdfStoresBothKeys :
    let s := testState { Latched.initial with src := 0x20000, dst := 0x1FFC0 } []
    s.Fits s.latched.key 32 ∧ s.Fits s.latched.src s.latched.len.toNat ∧ s.Fits s.latched.dst 64 := by
  unfold State.Fits; decide +kernel

theorem witness_HupdHashesIntoTranscript :
    edgeState.Fits edgeState.latched.src edgeState.latched.len.toNat ∧ edgeState.hEmpty = true
      ∧ (stateT2 edgeState.latched).Fits edgeState.latched.src edgeState.latched.len.toNat
      ∧ (stateT2 edgeState.latched).hEmpty = false := by
  unfold State.Fits; decide +kernel

theorem witness_HreadShaAndZero :
    edgeState.Fits edgeState.latched.dst 32 ∧ edgeState.Fits edgeState.latched.src edgeState.latched.len.toNat
      ∧ edgeState.Fits edgeState.latched.dst edgeState.latched.len.toNat := by
  unfold State.Fits; decide +kernel

/-- Every command with a region has one out of range in `outState`, the AD region by one byte. -/
theorem witness_OutOfRangeRegionsRaiseBounds :
    (∀ i ∈ [Instr.aeadEnc .region, .aeadEnc .transcript, .aeadDec .region, .aeadDec .transcript, .ecdh, .ecpub, .hkdf],
      ((0x20000 : Word), 32) ∈ inRegions i outState.latched ∨ outRegion i outState.latched = some (0x20000, 32))
    ∧ ((0x20000 : Word), 1) ∈ inRegions (.aeadDec .region) outState.latched
    ∧ ((0x20000 : Word), 33) ∈ inRegions .pkcheck outState.latched
    ∧ ((0x20000 : Word), 16) ∈ inRegions .hupd outState.latched
    ∧ ((0x20000 : Word), 16) ∈ inRegions .sha outState.latched
    ∧ outRegion .hread outState.latched = some (0x20000, 32) ∧ outRegion .zero outState.latched = some (0x20000, 16)
    ∧ outState.dmemsz.toNat < (0x20000 : Word).toNat + 1 ∧ 16 ≤ outState.latched.len.toNat := by decide +kernel

theorem witness_FirstApplicableErrorIsReported :
    (State.reset.withFetchWord 32 0x0C).NextIsCompletion
      ∧ ∃ r, decode (joinWord (State.reset.withFetchWord 32 0x0C).latched.commandWord) = .error r :=
  ⟨⟨rfl, .inl rfl⟩, _, rfl⟩

theorem witness_CommandsChangeOnlyTheirOutRegion :
    ((∃ t, exec .nop edgeState = .next t) ∧ (∃ t, exec .zero edgeState = .next t) ∧ Instr.zero ≠ .hinit
        ∧ Instr.zero ≠ .hupd)
      ∧ (State.reset.withFetchWord 32 0x0C).NextIsCompletion
      ∧ ∃ t, step (State.reset.withFetchWord 32 0x0C) = .next t :=
  ⟨⟨⟨_, rfl⟩, ⟨_, rfl⟩, by decide, by decide⟩, ⟨rfl, .inl rfl⟩, _, rfl⟩

/-- A command that fails, and the completion of an illegal word. -/
theorem witness_ErrorsArePrecise :
    (∃ t, exec .hread outState = .next t ∧ t.err = true)
      ∧ ∃ t, (State.reset.withFetchWord 32 0x0C).NextIsCompletion
        ∧ step (State.reset.withFetchWord 32 0x0C) = .next t ∧ t.err = true :=
  ⟨⟨outState.raise .bounds, rfl, rfl⟩, _, ⟨rfl, .inl rfl⟩, rfl, rfl⟩

theorem witness_CommandsReadOnlyLatchedOperands :
    let s' := { edgeState with src := 1, dst := 2, ctrLo := 3, wait := 4, irqEn := true }
    edgeState ≠ s' ∧ edgeState.latched = s'.latched ∧ edgeState.dmem = s'.dmem ∧ edgeState.dmemsz = s'.dmemsz
      ∧ edgeState.h = s'.h ∧ edgeState.hEmpty = s'.hEmpty := by
  refine ⟨?_, rfl, rfl, rfl, rfl, rfl⟩
  intro h
  exact absurd (congrArg State.irqEn h) (by decide)

/-- The first and last legal offsets of the page and of the window, and the first offsets beyond them. -/
theorem witness_BusErrorsAndOnlyThose :
    State.reset.busRead .word 0xFFC = .data 0 ∧ (State.reset.busWrite .word 0xFFC 1).2 = .ack
      ∧ (State.reset.busWrite .word 0x100000 1).2 = .ack ∧ (State.reset.busWrite .byte 0x11FFFF 1).2 = .ack
      ∧ (State.reset.busWrite .half 0x11FFFE 1).2 = .ack ∧ (State.reset.busWrite .word 0x11FFFC 1).2 = .ack
      ∧ (State.reset.busWrite .byte 0x120000 1).2 = .busError ∧ (State.reset.busWrite .word 0x1000 1).2 = .busError
      ∧ (State.reset.busWrite .word 0xFFFFC 1).2 = .busError
      ∧ (State.reset.busWrite (.other 64) 0x100000 1).2 = .busError := by decide +kernel

/-- Each width at the last address it may go to. -/
theorem witness_DmemAccessesAreLittleEndian :
    ∀ c ∈ [(Width.byte, 1, 0x1FFFF), (.half, 2, 0x1FFFE), (.word, 4, 0x1FFFC)],
      (c.1, c.2.1) ∈ [(Width.byte, 1), (Width.half, 2), (Width.word, 4)]
        ∧ (BitVec.ofNat 21 (0x100000 + c.2.2)).toNat = 0x100000 + c.2.2
        ∧ c.2.2 < State.reset.dmemsz.toNat ∧ c.2.2 % c.2.1 = 0 := by decide

theorem witness_OperandRegistersHoldLastWrite : ∃ t, exec .zero edgeState = .next t := ⟨_, rfl⟩

/-- The first and the last of H0 to H7. -/
theorem witness_ReadOnlyRegistersIgnoreWrites : (0 : Nat) < 8 ∧ (7 : Nat) < 8 := by decide

theorem witness_ReservedOffsetsReadZero :
    ∀ o ∈ [(0x038 : BitVec 21), 0x03C, 0x060, 0xFFC],
      o.toNat % 4 = 0 ∧ (o.toNat = 0x038 ∨ o.toNat = 0x03C ∨ (0x060 ≤ o.toNat ∧ o.toNat ≤ 0xFFC)) := by
  simp only [List.forall_mem_cons, List.not_mem_nil, false_imp_iff, implies_true, and_true]
  decide +kernel

/-- ERRCODE changes at a START after an error, at a completion, and at a reset. -/
theorem witness_StatusClearsByWritingOne :
    (∃ t, step { hostState .idle 0 (hostWrite 0x004 0x1) with err := true, errcode := 2 } = .next t ∧ t.errcode ≠ 2)
    ∧ (∃ t, step (State.reset.withFetchWord 32 0x0C) = .next t ∧ t.errcode ≠ State.reset.errcode)
    ∧ ∃ t, step { hostState .idle 0 .powerOn with err := true, errcode := 2 } = .next t ∧ t.errcode ≠ 2 :=
  ⟨⟨_, rfl, by decide⟩, ⟨_, rfl, by decide⟩, ⟨_, rfl, by decide⟩⟩

theorem witness_StartStatements :
    State.reset.phase = .idle ∧ (testState Latched.initial []).phase = .busy
      ∧ ∀ v ∈ [(0x1 : Word), 0x5, 0xFFFFFFFD], v.getLsbD 0 = true ∧ v.getLsbD 1 = false := by
  simp only [List.forall_mem_cons, List.not_mem_nil, false_imp_iff, implies_true, and_true]
  decide +kernel

theorem witness_OvrIsSetByRefusedStartOnly :
    let s := hostState .busy 1 (hostWrite 0x004 0x1)
    (∃ t, step s = .next t ∧ t.ovr = true) ∧ s.ovr = false ∧ s.phase = .busy ∧ s.NextIsStart :=
  ⟨⟨_, rfl, rfl⟩, rfl, rfl, 0x1, ⟨[], rfl⟩, by decide, by decide⟩

theorem witness_InterruptFollowsDoneOrErr :
    ((0x6 : Word).getLsbD 1 = true ∧ (0x6 : Word).getLsbD 2 = true) ∧ (0x3 : Word).getLsbD 2 = false
      ∧ State.reset.phase = .idle ∧ (0x7 : Word).getLsbD 0 = true := by decide

theorem witness_SoftResetClearsEverything : (0x2 : Word).getLsbD 1 = true ∧ (0x3 : Word).getLsbD 1 = true := by decide

theorem witness_PowerOnResetGivesResetValues :
    (hostState .idle 0 .powerOn).turn = .host .powerOn [] ∧ (hostState .busy 1 .powerOn).turn = .host .powerOn [] :=
  ⟨rfl, rfl⟩

/-- The first and the last offset of the DMEM window. -/
theorem witness_DmemAccessesWaitForCompletion :
    ∀ o ∈ [(0x100000 : BitVec 21), 0x11FFFF],
      let s := hostState .busy 1 (.access (.read .byte o))
      s.phase = .busy ∧ s.pending = [.access (.read .byte o)] ∧ 0x100000 ≤ o.toNat
        ∧ o.toNat < 0x100000 + s.dmemsz.toNat := by
  simp only [List.forall_mem_cons, List.not_mem_nil, false_imp_iff, implies_true, and_true]
  exact ⟨⟨rfl, rfl, by decide +kernel, by decide +kernel⟩, ⟨rfl, rfl, by decide +kernel, by decide +kernel⟩⟩

theorem witness_RegisterAccessesAreNotHeld :
    let s := hostState .busy 1 (hostWrite 0xFFC 0)
    s.phase = .busy ∧ s.wait ≠ 0 ∧ s.pending = [.access (.write .word 0xFFC 0)]
      ∧ (Access.write .word 0xFFC 0).offset.toNat < 0x1000 := by decide

/-- The invariant holds in a BUSY state that steps on. -/
theorem witness_EveryStepKeepsInvariant :
    let s := { edgeState with latched := { edgeState.latched with op := 0x0B } }
    s.Inv ∧ ∃ t, step s = .next t := by
  intro s
  refine ⟨⟨?_, ?_, ?_, ?_, ?_, ?_⟩, _, rfl⟩
  · unfold State.MemoryCanonical; decide +kernel
  · unfold State.FlagsExclusive; decide
  · unfold State.ErrcodeReported; decide
  · unfold State.BusyRecordClear; decide
  · unfold State.EmptyTranscriptZero; decide +kernel
  · unfold State.SizesLegal; decide +kernel

/-- HINIT and a power-on reset change the transcript of `stateT2`. -/
theorem witness_TranscriptIsWrittenByHinitHupdAndReset :
    (∃ t, step (stateT2 { Latched.initial with op := 0x07 }) = .next t ∧ t.hEmpty ≠ false)
      ∧ ∃ t, step { stateT2 Latched.initial with phase := .idle, pending := [.powerOn] } = .next t ∧ t.hEmpty ≠ false :=
  ⟨⟨_, rfl, by decide⟩, ⟨_, rfl, by decide⟩⟩

theorem witness_PhaseChangesInFourWays :
    (∃ t, step (hostState .idle 0 (hostWrite 0x004 0x1)) = .next t ∧ t.phase = .busy)
      ∧ (∃ t, step (hostState .busy 0 .powerOn) = .next t ∧ t.phase = .idle)
      ∧ (∃ t, step (hostState .busy 1 (hostWrite 0x004 0x2)) = .next t ∧ t.phase = .idle)
      ∧ ∃ t, step (hostState .busy 1 .powerOn) = .next t ∧ t.phase = .idle :=
  ⟨⟨_, rfl, rfl⟩, ⟨_, rfl, rfl⟩, ⟨_, rfl, rfl⟩, ⟨_, rfl, rfl⟩⟩

/-- A write while BUSY, and the START itself. -/
theorem witness_OperandsStandUntilCompletion :
    (∃ t, step (hostState .busy 1 (hostWrite 0x010 0xFF)) = .next t ∧ t.phase = .busy ∧ t.src = 0xFF)
      ∧ ∃ t, step (hostState .idle 0 (hostWrite 0x004 0x1)) = .next t ∧ t.phase = .busy :=
  ⟨⟨_, rfl, rfl, rfl⟩, _, rfl, rfl⟩

/-- A host write to DMEM and a completed ZERO change a byte. -/
theorem witness_DmemBytesChangeOnlyWhereWritten :
    ((nextOf (step (hostState .idle 0 (hostWrite 0x100000 0x1)))).map fun t => t.dmem.read 0) = some 1
      ∧ ((nextOf (step (testState { Latched.initial with op := 0x0B, len := 1 } [(0, [5])]))).map fun t => t.dmem.read 0)
        = some 0 := by decide +kernel

/-- OUTLEN changes when a ZERO completes. -/
theorem witness_OutlenChangesAtStartCompletionAndReset :
    let s := testState { Latched.initial with op := 0x0B, len := 1 } []
    ((nextOf (step s)).map fun t => (t.done, t.outlen)) = some (true, 1) ∧ s.outlen = 0 ∧ s.phase = .busy ∧ s.wait = 0 := by
  decide +kernel

theorem witness_BusyStatements :
    let s := hostState .busy 1 (.access (.read .word 0x008))
    s.phase = .busy ∧ s.HostOnlyPolls ∧ ∃ u, step { s with pending := [] } = .next u := by
  refine ⟨rfl, ?_, _, rfl⟩
  simp only [State.HostOnlyPolls, hostState, List.mem_singleton]
  rintro e rfl
  exact ⟨.word, 0x008, rfl, by decide⟩

/-- A7: 32 zero bytes of AD, in a region or as the transcript (`H_EMPTY` = 1), its tag moved to 0x80 with another key
address, ready for AEAD_DEC: every pair of sources. -/
theorem witness_AeadRoundTrip :
    ∀ a ∈ [AdSource.region, .transcript], ∀ b ∈ [AdSource.region, .transcript],
      let s := testState { Latched.initial with dst := 0x40, src := 0x40, ad := 0x200, adlen := 32 } [(0, keyK)]
      let u := testState { Latched.initial with key := 0x100, src := 0x80, len := 16, dst := 0x20000, ad := 0x200, adlen := 32 }
        [(0x80, beBytes 16 0x1c09754acdf3255d71be6eef936a8eb8), (0x100, keyK)]
      ((nextOf (exec (.aeadEnc a) s)).map fun t =>
            (t.done, t.dmem.readBytes s.latched.dst.toNat (s.latched.len.toNat + 16)))
          = some (true, u.dmem.readBytes u.latched.src.toNat u.latched.len.toNat)
        ∧ u.dmem.readBytes u.latched.key.toNat 32 = s.dmem.readBytes s.latched.key.toNat 32
        ∧ u.adBytes b = s.adBytes a ∧ u.latched.ctr = s.latched.ctr
        ∧ u.latched.len.toNat = s.latched.len.toNat + 16
        ∧ (u.Fits u.latched.key 32 ∧ u.Fits u.latched.src u.latched.len.toNat
          ∧ u.Fits u.latched.ad u.latched.adlen.toNat ∧ u.Fits u.latched.dst (u.latched.len.toNat - 16)) := by
  unfold State.Fits; decide +kernel

theorem witness_CurveStatements :
    onCurve secpG = true ∧ onCurve .infinity = true ∧ secpG ≠ .infinity ∧ pubG.length = 33
      ∧ decompress pubG = some secpG ∧ 1 ≤ secpN - 1 := by decide +kernel

end Sys2Proof.Tests
end

/-!
PROOFS. How a run from a BUSY state ends (spec/00_scope.md R19; 44_control.md R139): a step of the engine leaves the
block IDLE, and a step of the host takes one event off the list of events to come.
-/

namespace Sys2Proof.Machine

/-! ### No host transaction touches the list of events to come -/

@[simp] theorem State.start_pending (s : State) : s.start.pending = s.pending := by
  cases h : s.phase with
  | idle => exact s.start_idle_pending h
  | busy => rw [s.start_busy h]

@[simp] theorem State.writeCtrl_pending (s : State) (v : Word) : (s.writeCtrl v).pending = s.pending := by
  unfold State.writeCtrl
  split
  · exact s.softReset_pending
  · split
    · exact State.start_pending _
    · rfl

@[simp] theorem State.writeReg_pending (s : State) (r : Reg) (v : Word) : (s.writeReg r v).pending = s.pending := by
  cases r with
  | ctrl => exact s.writeCtrl_pending v
  | status => exact s.writeStatus_pending v
  | _ => rfl

@[simp] theorem State.perform_pending (s : State) (a : Access) : (s.perform a).pending = s.pending := by
  rcases s.perform_cases a with ⟨w, o, -, hp⟩ | ⟨o, v, -, -, -, hp⟩ | ⟨w, o, v, x, n, -, -, -, -, -, hp⟩ | ⟨w, o, v, -, hp⟩
  · rw [hp]
  · rw [hp]; exact s.writeReg_pending _ v
  · rw [hp]
  · rw [hp]

/-- The host's step takes exactly its own event off the list. -/
@[simp] theorem State.hostStep_pending (s : State) (e : HostEvent) (rest : List HostEvent) :
    (s.hostStep e rest).pending = rest := by
  cases e with
  | access a => exact State.perform_pending _ a
  | powerOn => exact State.powerOnReset_pending _

/-! ### What a step from a BUSY state does -/

/-- Every way a command ends leaves the block IDLE (44_control.md R140; 60_exceptions.md R150). -/
theorem CommandEnd.phase_idle {i : Instr} {s t : State} (h : CommandEnd i s t) : t.phase = .idle := by
  cases h <;> rfl

/-- The engine's step ends its command, a legal or an illegal one. -/
theorem step_idle_of_turn_engine (s : State) (ht : s.turn = .engine) : ∃ t, step s = .next t ∧ t.phase = .idle := by
  cases hf : s.fetch with
  | ok i =>
    obtain ⟨t, he, hend⟩ := exec_ends i s
    exact ⟨t, by simp [step, ht, hf, he], hend.phase_idle⟩
  | error r => exact ⟨s.raise .illegal, by simp [step, ht, hf], rfl⟩

/-- A step from a BUSY state ends the command, or performs the next host event. -/
theorem step_of_busy (s : State) (hb : s.phase = .busy) :
    ∃ t, step s = .next t ∧ (t.phase = .idle ∨ t.pending.length + 1 = s.pending.length) := by
  cases ht : s.turn with
  | engine =>
    obtain ⟨t, hs, hi⟩ := step_idle_of_turn_engine s ht
    exact ⟨t, hs, .inl hi⟩
  | host e rest =>
    obtain ⟨hp, -⟩ := (s.turn_host_iff e rest).mp ht
    exact ⟨s.hostStep e rest, by simp [step, ht], .inr (by simp [hp])⟩
  | quiet =>
    obtain ⟨hi, -⟩ := s.turn_quiet_iff.mp ht
    simp [hb] at hi

/-! ### Runs -/

/-- A run that takes its first step to `u` goes on from `u`. -/
theorem core_run_succ_of_step {s u : State} (h : step s = .next u) (k : Nat) :
    Sys2Proof.core.run (k + 1) s = Sys2Proof.core.run k u := by
  have hc : Sys2Proof.core.step s = .next u := h
  simp only [Host.Core.run, hc]

/-- Settles O51, by induction on the number of host events to come. -/
theorem busyEndsWithinPendingSteps : Obligations.BusyEndsWithinPendingSteps := by
  unfold Obligations.BusyEndsWithinPendingSteps
  intro s hb
  induction hn : s.pending.length using Nat.strong_induction_on generalizing s with
  | _ n ih =>
    obtain ⟨u, hs, hstep⟩ := step_of_busy s hb
    cases hu : u.phase with
    | idle => exact ⟨1, u, by omega, core_run_succ_of_step hs 0, hu⟩
    | busy =>
      have hp : u.pending.length + 1 = s.pending.length := by simpa [hu] using hstep
      obtain ⟨k, t, hk, hr, hi⟩ := ih u.pending.length (by omega) u hu rfl
      exact ⟨k + 1, t, by omega, (core_run_succ_of_step hs k).trans hr, hi⟩

end Sys2Proof.Machine

/-!
PROOFS. The state of the block (spec/10_state.md): which steps may change each piece of it, and the invariant that every
step keeps. First what a register access, a write to CTRL, a command's end and a completion do, each said once.
-/

namespace Sys2Proof.Machine

/-! ### Register accesses: the register at an aligned offset of the page (10_state.md R21; 20_memory.md R47) -/

theorem State.busRead_page (s : State) (o : BitVec 21) (hp : o.toNat < 0x1000 := by decide)
    (ha : o.toNat % 4 = 0 := by decide) :
    s.busRead .word o = .data (s.readReg (regAt o.toNat)) := by
  have hr := (s.accessReg_eq_some .word o _).mpr ⟨rfl, hp, ha, rfl⟩
  simp [State.busRead, hr]

theorem State.busWrite_page (s : State) (o : BitVec 21) (v : Word) (hp : o.toNat < 0x1000 := by decide)
    (ha : o.toNat % 4 = 0 := by decide) :
    s.busWrite .word o v = (s.writeReg (regAt o.toNat) v, .ack) := by
  have hr := (s.accessReg_eq_some .word o _).mpr ⟨rfl, hp, ha, rfl⟩
  simp [State.busWrite, hr]

theorem State.busWrite_ctrl (s : State) (v : Word) : s.busWrite .word 0x004 v = (s.writeCtrl v, .ack) :=
  s.busWrite_page 0x004 v

theorem State.busWrite_status (s : State) (v : Word) : s.busWrite .word 0x008 v = (s.writeStatus v, .ack) :=
  s.busWrite_page 0x008 v

/-- H0 to H7 stand at 0x040 to 0x05C (10_state.md R36). -/
theorem regAt_hWord (k : Fin 8) :
    (BitVec.ofNat 21 (0x040 + 4 * k)).toNat < 0x1000 ∧ (BitVec.ofNat 21 (0x040 + 4 * k)).toNat % 4 = 0
      ∧ regAt (BitVec.ofNat 21 (0x040 + 4 * k)).toNat = .hWord k := by
  revert k
  decide

/-- The offsets that 10_state.md R40 reserves hold no register. -/
theorem regAt_reserved (o : Nat) (ha : o % 4 = 0) (h : o = 0x038 ∨ o = 0x03C ∨ 0x060 ≤ o) :
    regAt o = .reserved := by
  unfold regAt
  split
  rotate_right
  · rfl
  all_goals omega

/-! ### Writes to CTRL (10_state.md R25) -/

@[simp] theorem State.start_irqEn (s : State) : s.start.irqEn = s.irqEn := by
  cases h : s.phase with
  | idle => exact s.start_idle_irqEn h
  | busy => rw [s.start_busy h]

theorem State.writeCtrl_srst (s : State) (v : Word) (h1 : v.getLsbD 1 = true) :
    s.writeCtrl v = State.softReset { s with irqEn := v.getLsbD 2 } := if_pos h1

theorem State.writeCtrl_start (s : State) (v : Word) (h1 : v.getLsbD 1 = false) (h0 : v.getLsbD 0 = true) :
    s.writeCtrl v = State.start { s with irqEn := v.getLsbD 2 } := by
  rw [State.writeCtrl, h1, h0, if_neg Bool.false_ne_true, if_pos rfl]

/-- Every write to CTRL leaves IRQ_EN at bit 2, or at 0 where SRST acts. -/
theorem State.writeCtrl_irqEn (s : State) (v : Word) : (s.writeCtrl v).irqEn = (v.getLsbD 2 && !v.getLsbD 1) := by
  cases h1 : v.getLsbD 1 with
  | true => rw [s.writeCtrl_srst v h1, State.softReset_irqEn, Bool.not_true, Bool.and_false]
  | false =>
    rw [State.writeCtrl, h1, if_neg Bool.false_ne_true, Bool.not_false, Bool.and_true]
    split
    · exact State.start_irqEn _
    · rfl

/-! ### Whose step it is: the events of a step exclude each other -/

/-- A step has one transaction: its offset and its data are determined. -/
theorem State.NextIsWrite.eq_of_turn {s : State} {w : Width} {o o' : BitVec 21} {v v' : Word} {rest : List HostEvent}
    (ht : s.turn = .host (.access (.write w o v)) rest) (h : s.NextIsWrite o' v') : o = o' ∧ v = v' := by
  obtain ⟨rest', h⟩ := h
  rw [ht] at h
  simp only [Turn.host.injEq, HostEvent.access.injEq, Access.write.injEq] at h
  obtain ⟨⟨-, ho, hv⟩, -⟩ := h
  exact ⟨ho, hv⟩

theorem State.NextIsCompletion.turn {s : State} (h : s.NextIsCompletion) : s.turn = .engine :=
  s.turn_engine_iff.mpr h

theorem State.NextIsCompletion.not_start {s : State} (h : s.NextIsCompletion) : ¬ s.NextIsStart := by
  rintro ⟨v, ⟨rest, ht⟩, -⟩
  simp [h.turn] at ht

theorem State.NextIsReset.not_start {s : State} (h : s.NextIsReset) : ¬ s.NextIsStart := by
  rintro ⟨v, ⟨rest, ht⟩, -, h1⟩
  rcases h with ⟨rest', hr⟩ | ⟨v', hw, h1'⟩
  · simp [hr] at ht
  · obtain ⟨-, rfl⟩ := State.NextIsWrite.eq_of_turn ht hw
    exact Bool.false_ne_true (h1.symm.trans h1')

/-! ### How a command ends, and how a completion ends -/

/-- A command leaves every register but STATUS and OUTLEN, the latched record and the record of the host. -/
theorem CommandEnd.sameControls {i : Instr} {s t : State} (h : CommandEnd i s t) : s.SameControls t := by
  cases h with
  | failed e => exact s.raise_sameControls e
  | stored v n => exact (s.memWrite s.latched.dst v).complete_sameControls n
  | checked => exact s.complete_sameControls 0
  | restarted => exact State.complete_sameControls _ 0
  | updated => exact State.complete_sameControls _ 0

/-- A command leaves every DMEM byte outside its out region. -/
theorem CommandEnd.sameDmemOutside {i : Instr} {s t : State} (h : CommandEnd i s t) :
    s.SameDmemWhere t fun a => ∀ b n, outRegion i s.latched = some (b, n) → OutsideRegion b.toNat n a := by
  intro a ha
  cases h with
  | stored v n hout hlen =>
    have hoff := ha _ _ hout
    rw [← hlen] at hoff
    exact s.memWrite_read_outside s.latched.dst v a hoff
  | failed | checked | restarted | updated => rfl

/-- Only HINIT and HUPD write the transcript. -/
theorem CommandEnd.sameTranscript {i : Instr} {s t : State} (h : CommandEnd i s t) (hi : i ≠ .hinit) (hu : i ≠ .hupd) :
    s.SameTranscript t := by
  cases h with
  | restarted h => exact absurd h hi
  | updated h => exact absurd h hu
  | failed | stored | checked => exact ⟨rfl, rfl⟩

/-- A command that ends with ERR writes no DMEM byte (60_exceptions.md R150). -/
theorem CommandEnd.dmem_of_not_done {i : Instr} {s t : State} (h : CommandEnd i s t) (hd : t.done = false) :
    t.dmem = s.dmem := by
  cases h with
  | failed => rfl
  | stored | checked | restarted | updated => simp at hd

theorem CommandEnd.outlen_of_err {i : Instr} {s t : State} (h : CommandEnd i s t) (he : t.err = true) : t.outlen = 0 := by
  cases h with
  | failed => rfl
  | stored | checked | restarted | updated => simp at he

/-- A region in range has a length that a 32-bit register holds. -/
theorem State.inRange_length {s : State} {a : Word} {n : Nat} (h : s.inRange a n = true) :
    n ≤ s.dmemsz.toNat ∧ n < 2 ^ 32 := by
  have hr : a.toNat + n ≤ s.dmemsz.toNat := by simpa [State.inRange] using h
  have hz := s.dmemsz.isLt
  omega

/-- With DONE, OUTLEN is the length of the out region, without a wrap. -/
theorem CommandEnd.outlen_of_done {i : Instr} {s t : State} (h : CommandEnd i s t) (hd : t.done = true) :
    t.outlen.toNat = outLength i s.latched := by
  cases h with
  | failed => simp at hd
  | stored v n hout hlen hr =>
    rw [State.complete_outlen, BitVec.toNat_ofNat, Nat.mod_eq_of_lt (State.inRange_length hr).2, outLength, hout]
    rfl
  | checked hout => simp [outLength, hout]
  | restarted hi => simp [outLength, outRegion, hi]
  | updated hi => simp [outLength, outRegion, hi]

/-- A completion step ends a command, or raises ILLEGAL. -/
theorem completion_ends {s t : State} (hc : s.NextIsCompletion) (h : step s = .next t) :
    (∃ i, decode (joinWord s.latched.commandWord) = .ok i ∧ CommandEnd i s t) ∨ t = s.raise .illegal := by
  have hdec : decode (joinWord s.latched.commandWord) = s.fetch := by rw [decode, splitWord_joinWord, State.fetch]
  rcases step_cases s with ⟨-, i, hf, he⟩ | ⟨-, -, he⟩ | ⟨e, rest, ht, -⟩ | ⟨ht, -⟩
  · exact .inl ⟨i, hdec.trans hf, exec_cases i s t (he ▸ h)⟩
  · rw [he] at h
    cases h
    exact .inr rfl
  · simp [hc.turn] at ht
  · simp [hc.turn] at ht

/-! ### The invariant, update by update -/

theorem ErrCode.code_le (e : ErrCode) : e.code.toNat ≤ 6 := by cases e <;> decide

theorem ErrCode.code_ne_zero (e : ErrCode) : e.code ≠ 0 := by cases e <;> decide

theorem State.Inv.raise {s : State} (h : s.Inv) (e : ErrCode) : (s.raise e).Inv := by
  obtain ⟨hmem, -, -, -, hempty, hsize, -⟩ := h
  exact ⟨hmem, by simp [State.FlagsExclusive], ⟨e.code_le, by simp, fun _ => e.code_ne_zero⟩,
    by simp [State.BusyRecordClear], hempty, hsize, Nat.zero_le _⟩

/-- A success keeps the invariant where the number of bytes it reports is at most `DMEM_BYTES`. -/
theorem State.Inv.complete {s : State} (h : s.Inv) {n : Nat} (hn : n ≤ s.dmemsz.toNat) : (s.complete n).Inv := by
  obtain ⟨hmem, -, -, -, hempty, hsize, -⟩ := h
  refine ⟨hmem, by simp [State.FlagsExclusive], by simp [State.ErrcodeReported], by simp [State.BusyRecordClear],
    hempty, hsize, ?_⟩
  rw [State.complete_outlen, BitVec.toNat_ofNat]
  exact (Nat.mod_le n (2 ^ 32)).trans hn

/-- Replacing DMEM keeps the invariant where the new one is in canonical form. -/
theorem State.Inv.withDmem {s : State} (h : s.Inv) {m : Memory} (hm : m.wf s.dmemsz.toNat = true) :
    State.Inv { s with dmem := m } := by
  obtain ⟨-, hrest⟩ := h
  exact ⟨hm, hrest⟩

theorem State.Inv.withTranscript {s : State} (h : s.Inv) (x : Vector Byte 32) (b : Bool)
    (hx : b = true → x = Vector.replicate 32 0) : State.Inv { s with h := x, hEmpty := b } := by
  obtain ⟨hmem, hflags, hcode, hbusy, -, hsize⟩ := h
  exact ⟨hmem, hflags, hcode, hbusy, hx, hsize⟩

theorem CommandEnd.inv {i : Instr} {s t : State} (h : CommandEnd i s t) (hs : s.Inv) : t.Inv := by
  cases h with
  | failed e => exact hs.raise e
  | stored v n hout hlen hr =>
    have hwf := s.memWrite_wf s.latched.dst v hs.1 (hlen ▸ hr)
    exact (hs.withDmem hwf).complete (State.inRange_length hr).1
  | checked => exact hs.complete (Nat.zero_le _)
  | restarted => exact (hs.withTranscript _ true fun _ => rfl).complete (Nat.zero_le _)
  | updated => exact (hs.withTranscript _ false (by simp)).complete (Nat.zero_le _)

/-- An accepted START clears the record, which is what the invariant asks of a BUSY state; a refused one sets OVR. -/
theorem State.Inv.start {s : State} (h : s.Inv) : s.start.Inv := by
  cases hp : s.phase with
  | busy => rw [s.start_busy hp]; exact h
  | idle =>
    obtain ⟨hmem, -, -, -, hempty, hsize, -⟩ := h
    refine ⟨?_, ?_, ?_, ?_, ?_, ?_, ?_⟩
    · simpa [State.MemoryCanonical, hp] using hmem
    · simp [State.FlagsExclusive, hp]
    · simp [State.ErrcodeReported, hp]
    · simp [State.BusyRecordClear, hp]
    · simpa [State.EmptyTranscriptZero, hp] using hempty
    · simpa [hp] using hsize
    · simp [hp]

/-- Clearing DONE, ERR and OVR only weakens what the invariant asks of ERRCODE. -/
theorem State.Inv.writeStatus {s : State} (h : s.Inv) (v : Word) : (s.writeStatus v).Inv := by
  obtain ⟨hmem, hflags, ⟨hle, hdone, herr⟩, hbusy, hempty, hsize⟩ := h
  refine ⟨hmem, ?_, ⟨hle, ?_, ?_⟩, ?_, hempty, hsize⟩
  · simp only [State.FlagsExclusive, State.writeStatus_done, State.writeStatus_err, Bool.and_eq_true]
    rintro ⟨⟨hd, -⟩, he, -⟩
    exact hflags ⟨hd, he⟩
  · simp only [State.writeStatus_done, Bool.and_eq_true]
    rintro ⟨hd, -⟩
    exact hdone hd
  · simp only [State.writeStatus_err, Bool.and_eq_true]
    rintro ⟨he, -⟩
    exact herr he
  · intro hp
    obtain ⟨hd, he, hcode, hout⟩ := hbusy hp
    exact ⟨by simp [hd], by simp [he], hcode, hout⟩

/-- A state at the reset values with an empty DMEM list has the invariant, whatever came before. -/
theorem State.AtResetValues.inv {t : State} (h : t.AtResetValues) (hm : t.dmem.cells = [])
    (hz : Config.legalDmemBytes t.dmemsz = true) : t.Inv := by
  obtain ⟨-, hd, he, -, hcode, -, -, -, -, -, -, -, -, -, -, hout, hh, -, hp, -⟩ := h
  refine ⟨(Memory.wf_iff _ _).mpr (by simp [hm]), ?_, ?_, ?_, fun _ => hh, hz, ?_⟩
  · simp [State.FlagsExclusive, hd]
  · simp [State.ErrcodeReported, hcode, he]
  · simp [State.BusyRecordClear, hp]
  · simp [hout]

/-- A legal `DMEM_BYTES` holds whole words, so that an aligned access in the DMEM window ends inside it. -/
theorem legalDmemBytes_mod {z : Word} (hz : Config.legalDmemBytes z = true) : z.toNat % 4 = 0 := by
  simp only [Config.legalDmemBytes, Bool.and_eq_true, beq_iff_eq] at hz
  obtain ⟨⟨h4, -⟩, -⟩ := hz
  exact h4

/-- The invariant is kept, one way a step can end after the other. -/
theorem StepEnd.inv {s t : State} (h : StepEnd s t) (hs : s.Inv) : t.Inv := by
  have hlegal : Config.legalDmemBytes s.dmemsz = true := by
    obtain ⟨-, -, -, -, -, hz, -⟩ := hs
    exact hz
  cases h with
  | completed i _ _ _ _ hx => exact hx.inv hs
  | illegal => exact hs.raise .illegal
  | reset _ hr hv hz hm => exact hv.inv hm (hz ▸ hlegal)
  | start v rest =>
    exact State.Inv.start (s := { s with irqEn := v.getLsbD 2, pending := rest, wait := s.wait - 1 }) hs
  | irqEnable => exact hs
  | status v rest => exact State.Inv.writeStatus (s := { s with pending := rest, wait := s.wait - 1 }) hs v
  | registers => exact hs
  | dmemWrite w o v x n rest r hi ht hw ho hx ha =>
    have hacc : s.accessDmem w o = some (x, n) := (s.accessDmem_eq_some w o x n).mpr ⟨hw, ho, hx, ha⟩
    obtain ⟨hend, -, -⟩ := s.accessDmem_bounds w o x n hacc (legalDmemBytes_mod hlegal)
    exact hs.withDmem (s.dmem.writeBytes_wf x _ s.dmemsz.toNat hs.1 (by simpa using hend))

/-- Settles O44, from the ways a step can end. -/
theorem everyStepKeepsInvariant : Obligations.EveryStepKeepsInvariant := by
  unfold Obligations.EveryStepKeepsInvariant
  intro s t hs h
  exact (step_ends s t h).inv hs

/-- The reset state has the reset values of 10_state.md R43. -/
theorem State.reset_atResetValues : State.reset.AtResetValues := by
  simp [State.AtResetValues, State.reset, State.irq]

/-- Settles O45. -/
theorem invariantHoldsAtReset : Obligations.InvariantHoldsAtReset := by
  unfold Obligations.InvariantHoldsAtReset
  exact State.reset_atResetValues.inv rfl (by decide)

/-! ### Frames of commands and of steps -/

/-- Settles O23. -/
theorem commandsChangeOnlyTheirOutRegion : Obligations.CommandsChangeOnlyTheirOutRegion := by
  unfold Obligations.CommandsChangeOnlyTheirOutRegion
  constructor
  · intro i s t h
    have hend := exec_cases i s t h
    exact ⟨hend.sameControls, hend.sameDmemOutside, hend.sameTranscript⟩
  · intro s t hc h
    rcases completion_ends hc h with ⟨i, -, hend⟩ | rfl
    · exact hend.sameControls
    · exact s.raise_sameControls .illegal

/-- The steps that may change what STATUS and OUTLEN record of a command: an accepted START, a completion, a reset. -/
def State.NextMayRecord (s : State) : Prop := (s.phase = .idle ∧ s.NextIsStart) ∨ s.NextIsCompletion ∨ s.NextIsReset

/-- Every other step leaves ERRCODE, LASTOP and OUTLEN. -/
theorem StepEnd.sameRecord {s t : State} (h : StepEnd s t) (hn : ¬ s.NextMayRecord) :
    t.errcode = s.errcode ∧ t.lastop = s.lastop ∧ t.outlen = s.outlen := by
  simp only [State.NextMayRecord, not_or] at hn
  obtain ⟨hstart, hcomp, hreset⟩ := hn
  cases h with
  | completed _ _ hc => exact absurd hc hcomp
  | illegal _ hc => exact absurd hc hcomp
  | reset _ hr => exact absurd hr hreset
  | start v rest r ht h1 h0 =>
    cases hp : s.phase with
    | idle => exact absurd ⟨hp, v, ⟨rest, ht⟩, h0, h1⟩ hstart
    | busy => simp [State.start_busy]
  | irqEnable | status | registers | dmemWrite => exact ⟨rfl, rfl, rfl⟩

/-- No step changes DMEMSZ. -/
theorem StepEnd.dmemsz_eq {s t : State} (h : StepEnd s t) : t.dmemsz = s.dmemsz := by
  cases h with
  | completed _ _ _ _ _ hx =>
    cases hx <;> rfl
  | reset _ _ _ hz => exact hz
  | start => cases hp : s.phase <;> simp [State.start]
  | illegal | irqEnable | status | registers | dmemWrite => rfl

/-- Settles O50. -/
theorem outlenChangesAtStartCompletionAndReset : Obligations.OutlenChangesAtStartCompletionAndReset := by
  unfold Obligations.OutlenChangesAtStartCompletionAndReset
  intro s t h
  have hend := step_ends s t h
  refine ⟨hend.dmemsz_eq, fun hne => ?_, fun hc => ?_⟩
  · by_contra hn
    obtain ⟨-, -, hout⟩ := hend.sameRecord hn
    exact hne hout
  · rcases completion_ends hc h with ⟨i, hd, hx⟩ | rfl
    · exact ⟨hx.outlen_of_err, fun hdone => ⟨i, hd, hx.outlen_of_done hdone⟩⟩
    · simp

/-- Settles O34. -/
theorem statusClearsByWritingOne : Obligations.StatusClearsByWritingOne := by
  unfold Obligations.StatusClearsByWritingOne
  constructor
  · intro s v
    exact ⟨s.writeStatus v, s.busWrite_status v, rfl, rfl, rfl, rfl⟩
  · intro s t h hne
    by_contra hn
    obtain ⟨hcode, hop, -⟩ := (step_ends s t h).sameRecord hn
    exact hne.elim (absurd hcode) (absurd hop)

/-- Settles O38, from the ways a step can end: only a refused START writes a 1 to OVR. -/
theorem ovrIsSetByRefusedStartOnly : Obligations.OvrIsSetByRefusedStartOnly := by
  unfold Obligations.OvrIsSetByRefusedStartOnly
  intro s t h ho
  cases step_ends s t h with
  | completed _ _ hc _ _ hx =>
    obtain ⟨⟨-, hovr, -⟩, -⟩ := hx.sameControls
    simp [hovr, ho, hc.not_start]
  | illegal _ hc => simp [ho, hc.not_start]
  | reset _ hr hv =>
    obtain ⟨-, -, -, hovr, -⟩ := hv
    simp [hovr, hr.not_start]
  | start v rest r ht h1 h0 =>
    have hstart : s.NextIsStart := ⟨v, ⟨rest, ht⟩, h0, h1⟩
    cases hp : s.phase <;> simp [State.start, ho, hstart]
  | irqEnable v rest r ht h1 h0 =>
    have hstart : ¬ s.NextIsStart := by
      rintro ⟨v', hw, h0', -⟩
      obtain ⟨-, rfl⟩ := State.NextIsWrite.eq_of_turn ht hw
      exact Bool.false_ne_true (h0.symm.trans h0')
    simp [ho, hstart]
  | status v rest r ht =>
    have hstart : ¬ s.NextIsStart := by
      rintro ⟨v', hw, -⟩
      obtain ⟨hoff, -⟩ := State.NextIsWrite.eq_of_turn ht hw
      exact absurd hoff (by decide)
    simp [ho, hstart]
  | registers =>
    rename_i hs
    simp [ho, hs]
  | dmemWrite _ _ _ _ _ _ _ hi => simp [ho, hi]

/-- Settles O49, from the ways a step can end. -/
theorem dmemBytesChangeOnlyWhereWritten : Obligations.DmemBytesChangeOnlyWhereWritten := by
  unfold Obligations.DmemBytesChangeOnlyWhereWritten
  intro s t x h hne
  cases step_ends s t h with
  | completed i _ hc hd _ hx =>
    refine .inl ⟨hc, ?_, i, ?_⟩
    · by_contra hnd
      exact hne (by rw [hx.dmem_of_not_done (by simpa using hnd)])
    · by_contra hcover
      refine hne (hx.sameDmemOutside x fun b n hout => ?_)
      by_contra hin
      simp only [OutsideRegion, not_or, not_lt, not_le] at hin
      exact hcover ⟨b, n, hd, hout, hin⟩
  | reset _ hr => exact .inr (.inr hr)
  | start => cases hp : s.phase <;> simp [State.start, hp] at hne
  | dmemWrite w o v y n rest r hi ht hw ho =>
    refine .inr (.inl ⟨hi, w, n, o, v, rest, ht, hw, ?_⟩)
    by_contra hcover
    refine hne (s.dmem.read_writeBytes_outside y _ x ?_)
    rw [leBytes_length]
    omega
  | illegal | irqEnable | status | registers => exact absurd rfl hne

/-! ### What the registers show -/

/-- Blocks of `n` bytes one after the other are the string they were cut from. -/
theorem flatMap_blockAt (n c : Nat) (m : Bytes) : (List.range c).flatMap (blockAt n m) = m.take (n * c) := by
  induction c with
  | zero => simp
  | succ c ih =>
    rw [List.range_succ, List.flatMap_append, ih, Nat.mul_succ, List.take_add]
    simp [blockAt]

/-- A full 32-bit lane in little-endian order is the four bytes it was read from. -/
theorem leBytes_leWord (m : Bytes) (i : Nat) (h : (blockAt 4 m i).length = 4) :
    leBytes 4 (leWord m i).toNat = blockAt 4 m i := by
  have hlt : leInt (blockAt 4 m i) < 2 ^ 32 := by simpa [h] using leInt_lt (blockAt 4 m i)
  have hback := leBytes_leInt (blockAt 4 m i)
  rw [h] at hback
  rw [leWord, BitVec.toNat_ofNat, Nat.mod_eq_of_lt hlt, hback]

/-- Settles O32: each lane is four bytes of `H`, and the lanes are `H` cut into blocks of four. -/
theorem transcriptRegistersShowTranscript : Obligations.TranscriptRegistersShowTranscript := by
  unfold Obligations.TranscriptRegistersShowTranscript
  intro s
  refine ⟨fun k => leWord s.h.toList k, fun k => ⟨?_, rfl⟩, ?_⟩
  · obtain ⟨hp, ha, hr⟩ := regAt_hWord k
    rw [s.busRead_page _ hp ha, hr, State.readReg]
  · have hlane (k : Fin 8) : leBytes 4 (leWord s.h.toList k).toNat = blockAt 4 s.h.toList k := by
      apply leBytes_leWord
      rw [blockAt_length, Vector.length_toList]
      omega
    calc (List.finRange 8).flatMap (fun k : Fin 8 => leBytes 4 (leWord s.h.toList k).toNat)
        = (List.finRange 8).flatMap (fun k : Fin 8 => blockAt 4 s.h.toList k) := by simp only [hlane]
      _ = (List.range 8).flatMap (blockAt 4 s.h.toList) := by
          rw [← List.map_coe_finRange_eq_range, List.flatMap_map]
      _ = s.h.toList := by
          rw [flatMap_blockAt]
          exact List.take_of_length_le (by simp)

/-- Settles O29. -/
theorem operandRegistersHoldLastWrite : Obligations.OperandRegistersHoldLastWrite := by
  unfold Obligations.OperandRegistersHoldLastWrite
  refine ⟨fun s v => ?_, fun i s t h => ?_, rfl, rfl, rfl, rfl, rfl, rfl, rfl, rfl⟩
  · exact ⟨s.busWrite_page 0x010 v, s.busWrite_page 0x014 v, s.busWrite_page 0x018 v, s.busWrite_page 0x01C v,
      s.busWrite_page 0x020 v, s.busWrite_page 0x024 v, s.busWrite_page 0x028 v, s.busWrite_page 0x02C v,
      s.busRead_page 0x010, s.busRead_page 0x014, s.busRead_page 0x018, s.busRead_page 0x01C,
      s.busRead_page 0x020, s.busRead_page 0x024, s.busRead_page 0x028, s.busRead_page 0x02C⟩
  · obtain ⟨⟨-, -, -, hsrc, hlen, hkey, had, hadlen, hdst, hlo, hhi, -⟩, -⟩ := (exec_cases i s t h).sameControls
    exact ⟨hsrc, hlen, hkey, had, hadlen, hdst, hlo, hhi⟩

/-- Settles O30. -/
theorem readOnlyRegistersIgnoreWrites : Obligations.ReadOnlyRegistersIgnoreWrites := by
  unfold Obligations.ReadOnlyRegistersIgnoreWrites
  intro s v
  refine ⟨s.busRead_page 0x000, s.busRead_page 0x030, s.busRead_page 0x034,
    s.busWrite_page 0x000 v, s.busWrite_page 0x030 v, s.busWrite_page 0x034 v,
    fun k hk => ?_, _, _, _, s.busWrite_status v⟩
  obtain ⟨hp, ha, hreg⟩ := regAt_hWord ⟨k, hk⟩
  rw [s.busWrite_page _ v hp ha, hreg, State.writeReg]

/-- Settles O31. -/
theorem reservedOffsetsReadZero : Obligations.ReservedOffsetsReadZero := by
  unfold Obligations.ReservedOffsetsReadZero
  intro s o v ha ho
  have hp : o.toNat < 0x1000 := by omega
  have hreg : regAt o.toNat = .reserved := regAt_reserved _ ha (by omega)
  rw [s.busRead_page o hp ha, s.busWrite_page o v hp ha, hreg]
  exact ⟨rfl, rfl⟩

/-- The fields of STATUS that are wider than a bit (10_state.md R26), bit by bit. -/
theorem State.statusWord_wideFields (s : State) :
    s.statusWord.extractLsb' 5 3 = 0 ∧ s.statusWord.extractLsb' 8 8 = s.errcode
      ∧ s.statusWord.extractLsb' 16 8 = s.lastop ∧ s.statusWord.extractLsb' 24 8 = 0 := by
  refine ⟨?_, ?_, ?_, ?_⟩
  all_goals
    ext i hi
    interval_cases i <;> simp [State.statusWord]

/-- Settles O33. -/
theorem statusWordShowsFields : Obligations.StatusWordShowsFields := by
  unfold Obligations.StatusWordShowsFields
  intro s
  refine ⟨s.statusWord, s.busRead_page 0x008, ?_, ?_, ?_, ?_, ?_,
    s.statusWord_wideFields⟩
  · cases hp : s.phase <;> simp [State.statusWord, State.busy, hp]
  all_goals simp [State.statusWord]

/-- Settles O35. -/
theorem ctrlWritesActInOrder : Obligations.CtrlWritesActInOrder := by
  unfold Obligations.CtrlWritesActInOrder
  intro s v
  have hread (u : State) : u.busRead .word 0x004 = .data (if u.irqEn then 4 else 0) := by
    rw [u.busRead_page 0x004]
    cases hi : u.irqEn <;> simp [regAt, State.readReg, State.ctrlWord, hi]
  exact ⟨hread s, s.busWrite_ctrl v, hread State.reset⟩

/-- Settles O39. -/
theorem interruptFollowsDoneOrErr : Obligations.InterruptFollowsDoneOrErr := by
  unfold Obligations.InterruptFollowsDoneOrErr
  intro s
  refine ⟨by simp [State.irq], fun b => rfl, fun v h1 h2 => ?_, fun v h2 => ?_, fun v hp h0 => ?_⟩
  · rw [s.busWrite_status v]
    simp [State.irq, h1, h2]
  · rw [s.busWrite_ctrl v, State.irq, s.writeCtrl_irqEn v, h2, Bool.false_and, Bool.false_and]
  · rw [s.busWrite_ctrl v]
    cases h1 : v.getLsbD 1 with
    | true => simp [s.writeCtrl_srst v h1, State.irq]
    | false => simp [s.writeCtrl_start v h1 h0, State.irq, hp]

/-- Settles O41. -/
theorem powerOnResetGivesResetValues : Obligations.PowerOnResetGivesResetValues := by
  unfold Obligations.PowerOnResetGivesResetValues
  refine ⟨State.reset_atResetValues, ?_, ?_, fun s rest ht => ?_⟩
  · exact State.reset.busRead_page 0x034
  · exact State.reset.busRead_page 0x008
  · refine ⟨_, by rw [step, ht], ?_, ?_⟩
    · simp [State.hostStep, State.AtResetValues, State.irq]
    · simp [State.hostStep]

end Sys2Proof.Machine

/-!
PROOFS. The memory map and the host's accesses (spec/20_memory.md): which accesses are served and what they do, which
wait for a completion, and that a command checks every region it touches before anything else but its LEN.
-/

namespace Sys2Proof.Machine

/-! ### Bus errors (20_memory.md R47, R48, R50) -/

/-- The widths that DMEM serves, and how many bytes each moves (20_memory.md R48). -/
theorem Width.bytes_eq_some_iff (w : Width) (n : Nat) :
    w.bytes = some n ↔ (w, n) ∈ [(Width.byte, 1), (Width.half, 2), (Width.word, 4)] := by
  cases w <;> simp [Width.bytes, eq_comm]

/-- An access reaches a register exactly when it is a 32-bit access at an aligned offset of the register page. -/
theorem State.accessReg_ne_none_iff (s : State) (w : Width) (o : BitVec 21) :
    s.accessReg w o ≠ none ↔ w = .word ∧ o.toNat < 0x1000 ∧ o.toNat % 4 = 0 := by
  simp [Option.ne_none_iff_exists', s.accessReg_eq_some]

/-- An access reaches DMEM exactly when it has a width of 1, 2 or 4 bytes, is aligned to it, and lies in the window. -/
theorem State.accessDmem_ne_none_iff (s : State) (w : Width) (o : BitVec 21) :
    s.accessDmem w o ≠ none ↔
      ∃ n, (w, n) ∈ [(Width.byte, 1), (Width.half, 2), (Width.word, 4)]
        ∧ 0x100000 ≤ o.toNat ∧ o.toNat < 0x100000 + s.dmemsz.toNat ∧ o.toNat % n = 0 := by
  -- the window starts at a multiple of every width, so an offset is aligned as its address in DMEM is
  have haligned {n : Nat} (hw : w.bytes = some n) (a : Nat) : (0x100000 + a) % n = a % n := by
    have hdvd : n ∣ 0x100000 := by
      cases w <;> simp only [Width.bytes, Option.some.injEq, reduceCtorEq] at hw <;> subst hw <;> decide
    rw [Nat.add_mod, Nat.mod_eq_zero_of_dvd hdvd, Nat.zero_add, Nat.mod_mod]
  simp only [Option.ne_none_iff_exists', Prod.exists, s.accessDmem_eq_some, ← Width.bytes_eq_some_iff]
  constructor
  · rintro ⟨a, n, hw, ho, ha, hm⟩
    exact ⟨n, hw, by omega, by omega, by rw [ho, haligned hw, hm]⟩
  · rintro ⟨n, hw, hlo, hhi, hm⟩
    have ho : o.toNat = 0x100000 + (o.toNat - 0x100000) := by omega
    exact ⟨o.toNat - 0x100000, n, hw, ho, by omega, by rw [← haligned hw, ← ho, hm]⟩

/-- A read gets a bus error exactly when it reaches neither a register nor DMEM. -/
theorem State.busRead_eq_busError_iff (s : State) (w : Width) (o : BitVec 21) :
    s.busRead w o = .busError ↔ ¬ (s.accessReg w o ≠ none ∨ s.accessDmem w o ≠ none) := by
  cases hr : s.accessReg w o with
  | some r => simp [State.busRead, hr]
  | none => cases hd : s.accessDmem w o <;> simp [State.busRead, hr, hd]

/-- A write that reaches a register or DMEM is acknowledged. -/
theorem State.busWrite_ack (s : State) (w : Width) (o : BitVec 21) (v : Word)
    (h : s.accessReg w o ≠ none ∨ s.accessDmem w o ≠ none) : (s.busWrite w o v).2 = .ack := by
  cases hr : s.accessReg w o with
  | some r => simp [State.busWrite, hr]
  | none =>
    cases hd : s.accessDmem w o with
    | some p => simp [State.busWrite, hr, hd]
    | none => simp [hr, hd] at h

/-- A write that reaches neither changes nothing. -/
theorem State.busWrite_busError (s : State) (w : Width) (o : BitVec 21) (v : Word)
    (h : ¬ (s.accessReg w o ≠ none ∨ s.accessDmem w o ≠ none)) : s.busWrite w o v = (s, .busError) := by
  simp only [ne_eq, not_or, not_not] at h
  obtain ⟨hr, hd⟩ := h
  simp [State.busWrite, hr, hd]

/-- Settles O26. -/
theorem busErrorsAndOnlyThose : Obligations.BusErrorsAndOnlyThose := by
  unfold Obligations.BusErrorsAndOnlyThose
  intro s w o
  simp only [← s.accessReg_ne_none_iff w o, ← s.accessDmem_ne_none_iff w o]
  exact ⟨s.busRead_eq_busError_iff w o, fun v => ⟨s.busWrite_ack w o v, s.busWrite_busError w o v⟩⟩

/-! ### DMEM accesses (20_memory.md R51) -/

/-- No access reaches both a register and DMEM: the page and the window do not overlap (20_memory.md R46). -/
theorem State.accessReg_of_accessDmem {s : State} {w : Width} {o : BitVec 21} {p : Nat × Nat}
    (h : s.accessDmem w o = some p) : s.accessReg w o = none := by
  obtain ⟨-, ho, -, -⟩ := (s.accessDmem_eq_some w o p.1 p.2).mp h
  by_contra hr
  obtain ⟨-, hp, -⟩ := (s.accessReg_ne_none_iff w o).mp hr
  omega

theorem State.busRead_dmem {s : State} {w : Width} {o : BitVec 21} {a n : Nat} (h : s.accessDmem w o = some (a, n)) :
    s.busRead w o = .data (BitVec.ofNat 32 (leInt (s.dmem.readBytes a n))) := by
  simp [State.busRead, State.accessReg_of_accessDmem h, h]

theorem State.busWrite_dmem {s : State} {w : Width} {o : BitVec 21} {a n : Nat} (h : s.accessDmem w o = some (a, n))
    (v : Word) : s.busWrite w o v = ({ s with dmem := s.dmem.writeBytes a (leBytes n v.toNat) }, .ack) := by
  simp [State.busWrite, State.accessReg_of_accessDmem h, h]

/-- Byte `i` in little-endian order. -/
theorem leBytes_getElem (n v i : Nat) (h : i < (leBytes n v).length) :
    (leBytes n v)[i] = BitVec.ofNat 8 (v / 256 ^ i) := by
  induction n generalizing v i with
  | zero => simp at h
  | succ n ih =>
    cases i with
    | zero => simp [leBytes]
    | succ i => simp [leBytes, ih, Nat.div_div_eq_div_mul, Nat.pow_succ']

/-- The bytes of a word, as the bus names them. -/
theorem ofNat_toNat_div_eq_extractLsb' (v : Word) (i : Nat) :
    BitVec.ofNat 8 (v.toNat / 256 ^ i) = v.extractLsb' (8 * i) 8 := by
  apply BitVec.eq_of_toNat_eq
  have hpow : 256 ^ i = 2 ^ (8 * i) := by rw [Nat.pow_mul]
  simp [hpow, Nat.shiftRight_eq_div_pow]

/-- Settles O27. -/
theorem dmemAccessesAreLittleEndian : Obligations.DmemAccessesAreLittleEndian := by
  unfold Obligations.DmemAccessesAreLittleEndian
  intro s w n a o v hw ho ha hm
  have hacc : s.accessDmem w o = some (a, n) :=
    (s.accessDmem_eq_some w o a n).mpr ⟨(w.bytes_eq_some_iff n).mpr hw, ho, ha, hm⟩
  rw [State.busWrite_dmem hacc v]
  refine ⟨State.busRead_dmem hacc, rfl, fun i hi => ?_, fun x hx => ?_, rfl⟩
  · have hlen : i < (leBytes n v.toNat).length := by simpa using hi
    rw [s.dmem.read_writeBytes_inside a _ i hlen, leBytes_getElem, ofNat_toNat_div_eq_extractLsb']
  · exact s.dmem.read_writeBytes_outside a _ x (by simpa [OutsideRegion] using hx)

/-- Settles O28. -/
theorem readsHaveNoSideEffects : Obligations.ReadsHaveNoSideEffects := by
  unfold Obligations.ReadsHaveNoSideEffects
  intro s w o
  rfl

/-! ### Accesses while BUSY (20_memory.md R57, R58) -/

/-- With the command's end the model's count of events to the completion is used up. -/
theorem CommandEnd.wait_eq_zero {i : Instr} {s t : State} (h : CommandEnd i s t) : t.wait = 0 := by
  cases h <;> rfl

/-- What every completion step leaves of the agents: the block IDLE, the host's events and replies as they were. -/
theorem completion_agents {s t : State} (hc : s.NextIsCompletion) (h : step s = .next t) :
    t.phase = .idle ∧ t.wait = 0 ∧ t.pending = s.pending ∧ t.replies = s.replies := by
  rcases completion_ends hc h with ⟨i, -, hend⟩ | rfl
  · obtain ⟨-, -, -, -, hp, hr⟩ := hend.sameControls
    exact ⟨hend.phase_idle, hend.wait_eq_zero, hp, hr⟩
  · exact ⟨rfl, rfl, rfl, rfl⟩

theorem step_of_turn_host {s : State} {e : HostEvent} {rest : List HostEvent} (ht : s.turn = .host e rest) :
    step s = .next (s.hostStep e rest) := by
  simp [step, ht]

/-- Settles O42: the access is held, so the engine has the next step, and the host the one after it. -/
theorem dmemAccessesWaitForCompletion : Obligations.DmemAccessesWaitForCompletion := by
  unfold Obligations.DmemAccessesWaitForCompletion
  intro s a rest hb hp hlo hhi
  have hheld : s.held (.access a) = true := (s.held_access a).mpr ⟨hb, hlo, hhi⟩
  have hc : s.NextIsCompletion := ⟨hb, .inr (by simp [hp, hheld])⟩
  obtain ⟨t, hs, -⟩ := step_idle_of_turn_engine s hc.turn
  obtain ⟨hidle, hwait, hpend, hrep⟩ := completion_agents hc hs
  have hnext := step_of_turn_host (t.turn_idle_cons _ rest hidle (hpend.trans hp))
  rw [State.hostStep, hwait, Nat.zero_sub, ← hwait] at hnext
  exact ⟨t, hs, hidle, hpend, hrep, hnext⟩

/-- Settles O43. -/
theorem registerAccessesAreNotHeld : Obligations.RegisterAccessesAreNotHeld := by
  unfold Obligations.RegisterAccessesAreNotHeld
  intro s a rest hb hw hp ho
  have hheld : s.held (.access a) = false := by
    rw [Bool.eq_false_iff, ne_eq, s.held_access]
    omega
  exact step_of_turn_host ((s.turn_host_iff _ _).mpr ⟨hp, .inr ⟨hw, hheld⟩⟩)

/-! ### Regions out of range (20_memory.md R60; 30_encoding.md R77) -/

/-- One region out of range is enough for the check of all regions to fail. -/
theorem State.regionsInRange_eq_false {s : State} {i : Instr} {r : Word × Nat}
    (hr : r ∈ inRegions i s.latched ∨ outRegion i s.latched = some r) (ho : s.dmemsz.toNat < r.1.toNat + r.2) :
    s.regionsInRange i = false := by
  refine List.all_eq_false.mpr ⟨r, ?_, by simpa [State.inRange] using ho⟩
  simpa [Option.mem_toList] using hr

/-- The AD region is in the table of 30_encoding.md R77 as the commands check it. -/
theorem State.adRegion_inRange (s : State) (a : AdSource) :
    ((s.latched.adRegion a).all fun r => s.inRange r.1 r.2) = s.adInRange a := by
  cases a <;> simp [Latched.adRegion, State.adInRange]

/-- The table's check, the in regions and then the out region. -/
theorem State.regionsInRange_eq (s : State) (i : Instr) :
    s.regionsInRange i
      = (((inRegions i s.latched).all fun r => s.inRange r.1 r.2)
        && (outRegion i s.latched).toList.all fun r => s.inRange r.1 r.2) := List.all_append

/-- A command with a region out of range raises BOUNDS (60_exceptions.md R148), whatever its data; the one error that
comes before it is the MALFORMED of an AEAD_DEC with LEN below 16 (R149). Each command's range check is the table's. -/
theorem exec_eq_raise_bounds {i : Instr} {s : State} (h : s.regionsInRange i = false)
    (hdec : (∃ a, i = .aeadDec a) → 16 ≤ s.latched.len.toNat) : exec i s = .next (s.raise .bounds) := by
  rw [s.regionsInRange_eq] at h
  cases i with
  | nop | hinit => simp [inRegions, outRegion] at h
  | aeadEnc a =>
    refine congrArg Host.Outcome.next (if_neg ?_)
    simpa [inRegions, outRegion, s.adRegion_inRange, Bool.and_assoc] using h
  | aeadDec a =>
    have hlen : ¬ s.latched.len.toNat < 16 := not_lt.mpr (hdec ⟨a, rfl⟩)
    refine congrArg Host.Outcome.next ((if_neg hlen).trans (if_neg ?_))
    simpa [inRegions, outRegion, s.adRegion_inRange, Bool.and_assoc] using h
  | ecdh | ecpub | pkcheck | hkdf | hupd | hread | sha | zero =>
    refine congrArg Host.Outcome.next (if_neg ?_)
    simpa [inRegions, outRegion, Bool.and_assoc] using h

/-- Settles O21. -/
theorem outOfRangeRegionsRaiseBounds : Obligations.OutOfRangeRegionsRaiseBounds := by
  unfold Obligations.OutOfRangeRegionsRaiseBounds
  intro i s r hr ho hdec
  exact State.fails_of_raise (exec_eq_raise_bounds (State.regionsInRange_eq_false hr ho) hdec)

end Sys2Proof.Machine

/-!
PROOFS. The command word (spec/30_encoding.md R70 to R80): the legal words are the words of the commands, each command
decodes from its own word, and the engine answers every other word with ILLEGAL.
-/

namespace Sys2Proof

/-! ### Legal words on their fields (30_encoding.md R79) -/

theorem CommandWord.wellFormed_iff (c : CommandWord) :
    c.wellFormed = true ↔ c.rsv = 0 ∧ c.op.toNat ≤ 0x0B ∧ (c.adh = true → c.op = 0x01 ∨ c.op = 0x02) := by
  cases hadh : c.adh <;>
    simp [CommandWord.wellFormed, CommandWord.reservedZero, CommandWord.opAssigned, CommandWord.adhAllowed, hadh,
      and_assoc]

/-- The opcode map of R76 covers every legal word. -/
theorem CommandWord.exists_eq_encodeFields {c : CommandWord} (h : c.wellFormed = true) : ∃ i, c = encodeFields i := by
  obtain ⟨hrsv, hop, hadh⟩ := c.wellFormed_iff.mp h
  obtain ⟨op, adh, rsv⟩ := c
  dsimp only at hrsv hop hadh
  subst hrsv
  cases adh with
  | true =>
    rcases hadh rfl with rfl | rfl
    · exact ⟨.aeadEnc .transcript, rfl⟩
    · exact ⟨.aeadDec .transcript, rfl⟩
  | false =>
    obtain ⟨n, hn, rfl⟩ : ∃ n, n ≤ 0x0B ∧ op = BitVec.ofNat 8 n := ⟨op.toNat, hop, by simp⟩
    match n with
    | 0x00 => exact ⟨.nop, rfl⟩
    | 0x01 => exact ⟨.aeadEnc .region, rfl⟩
    | 0x02 => exact ⟨.aeadDec .region, rfl⟩
    | 0x03 => exact ⟨.ecdh, rfl⟩
    | 0x04 => exact ⟨.ecpub, rfl⟩
    | 0x05 => exact ⟨.pkcheck, rfl⟩
    | 0x06 => exact ⟨.hkdf, rfl⟩
    | 0x07 => exact ⟨.hinit, rfl⟩
    | 0x08 => exact ⟨.hupd, rfl⟩
    | 0x09 => exact ⟨.hread, rfl⟩
    | 0x0A => exact ⟨.sha, rfl⟩
    | 0x0B => exact ⟨.zero, rfl⟩

/-! ### Decoding fields (30_encoding.md R76, R78) -/

theorem decodeFields_encodeFields (i : Instr) : decodeFields (encodeFields i) = .ok i := by
  cases i with
  | aeadEnc a | aeadDec a => cases a <;> rfl
  | _ => rfl

/-- Each test of R78 fails on the words that its own clause of R79 makes illegal. -/
theorem decodeFields_of_not_wellFormed {c : CommandWord} (h : ¬ c.wellFormed = true) :
    ∃ r, decodeFields c = .error r := by
  by_cases hrsv : c.rsv = 0
  · by_cases hop : c.op.toNat ≤ 0x0B
    · have hadh : (c.adh && c.op != 0x01 && c.op != 0x02) = true := by
        simpa [c.wellFormed_iff, hrsv, hop, and_assoc] using h
      exact ⟨.adhNotAllowed c.op, by
        rw [decodeFields, if_neg (not_not.mpr hrsv), if_neg (not_lt.mpr hop), if_pos hadh]⟩
    · exact ⟨.unassignedOp c.op, by rw [decodeFields, if_neg (not_not.mpr hrsv), if_pos (not_le.mp hop)]⟩
  · exact ⟨.reservedBits, by rw [decodeFields, if_pos hrsv]⟩

theorem decodeFields_eq_ok_iff (c : CommandWord) (i : Instr) : decodeFields c = .ok i ↔ c = encodeFields i := by
  constructor
  · intro hdec
    by_cases h : c.wellFormed = true
    · obtain ⟨j, rfl⟩ := CommandWord.exists_eq_encodeFields h
      rw [decodeFields_encodeFields j] at hdec
      cases hdec
      rfl
    · obtain ⟨r, herr⟩ := decodeFields_of_not_wellFormed h
      simp [herr] at hdec
  · rintro rfl
    exact decodeFields_encodeFields i

theorem decodeFields_error_iff (c : CommandWord) : (∃ r, decodeFields c = .error r) ↔ ¬ c.wellFormed = true := by
  refine ⟨?_, decodeFields_of_not_wellFormed⟩
  rintro ⟨r, herr⟩ h
  obtain ⟨i, rfl⟩ := CommandWord.exists_eq_encodeFields h
  simp [decodeFields_encodeFields] at herr

/-! ### Decoding words -/

theorem decode_joinWord (c : CommandWord) : decode (joinWord c) = decodeFields c := by
  rw [decode, splitWord_joinWord]

theorem eq_joinWord_iff (w : Word) (c : CommandWord) : w = joinWord c ↔ splitWord w = c := by
  constructor
  · rintro rfl
    exact splitWord_joinWord c
  · rintro rfl
    exact (joinWord_splitWord w).symm

/-- Settles O1: joining and splitting are inverse, so the fields decide. -/
theorem decodeInvertsEncode : Obligations.DecodeInvertsEncode := by
  unfold Obligations.DecodeInvertsEncode
  intro w i
  rw [decode, decodeFields_eq_ok_iff, encode, eq_joinWord_iff]

/-- Settles O3, each word being the one that its command encodes to. -/
theorem listedWordsDecode : Obligations.ListedWordsDecode := by
  unfold Obligations.ListedWordsDecode
  simp only [decodeInvertsEncode _ _]
  decide

/-! ### The fields of a word as a number (30_encoding.md R70) -/

theorem splitWord_op_toNat (w : Word) : (splitWord w).op.toNat = w.toNat % 256 := by
  simp [splitWord]

theorem splitWord_adh_iff (w : Word) : (splitWord w).adh = true ↔ w.toNat / 256 % 2 = 1 := by
  simp [splitWord, BitVec.getLsbD, Nat.testBit_eq_decide_div_mod_eq]

theorem splitWord_rsv_toNat (w : Word) : (splitWord w).rsv.toNat = w.toNat / 512 := by
  have hlt : w.toNat / 512 < 2 ^ 23 := by omega
  rw [splitWord, BitVec.extractLsb'_toNat, Nat.shiftRight_eq_div_pow, Nat.mod_eq_of_lt hlt]

/-- R79 on the word's number. -/
theorem decode_error_iff (w : Word) :
    (∃ r, decode w = .error r) ↔
      w.toNat / 512 ≠ 0 ∨ 0x0C ≤ w.toNat % 256
        ∨ (w.toNat / 256 % 2 = 1 ∧ w.toNat % 256 ≠ 0x01 ∧ w.toNat % 256 ≠ 0x02) := by
  have hrsv : (splitWord w).rsv = 0 ↔ w.toNat / 512 = 0 := by
    rw [← BitVec.toNat_inj, splitWord_rsv_toNat]
    rfl
  have hop (k : BitVec 8) : (splitWord w).op = k ↔ w.toNat % 256 = k.toNat := by
    rw [← BitVec.toNat_inj, splitWord_op_toNat]
  have hop1 : (splitWord w).op = 0x01 ↔ w.toNat % 256 = 0x01 := hop 0x01
  have hop2 : (splitWord w).op = 0x02 ↔ w.toNat % 256 = 0x02 := hop 0x02
  rw [decode, decodeFields_error_iff, CommandWord.wellFormed_iff, hrsv, splitWord_op_toNat, splitWord_adh_iff,
    hop1, hop2]
  omega

end Sys2Proof

namespace Sys2Proof.Machine

/-! ### The engine's step on an illegal word (30_encoding.md R79) -/

theorem step_of_illegal {s : State} (hc : s.NextIsCompletion)
    (herr : ∃ r, decode (joinWord s.latched.commandWord) = .error r) : step s = .next (s.raise .illegal) := by
  obtain ⟨r, herr⟩ := herr
  rw [decode_joinWord] at herr
  simp [step, hc.turn, State.fetch, herr]

/-- Settles O2. -/
theorem illegalWordsRaiseIllegal : Obligations.IllegalWordsRaiseIllegal := by
  unfold Obligations.IllegalWordsRaiseIllegal
  intro w
  refine ⟨decode_error_iff w, fun s hc hw herr => ?_, fun s => ⟨s.busWrite_page 0x00C w, ?_⟩, rfl⟩
  · subst hw
    exact ⟨_, step_of_illegal hc herr, s.raise_recordsError .illegal, s.raise_sameRegisters .illegal,
      s.raise_sameTranscript .illegal, s.raise_sameDmem .illegal⟩
  · exact State.busRead_page { s with cmd := w } 0x00C

end Sys2Proof.Machine

/-!
PROOFS. The AEAD commands (spec/40_aead.md) and what every command shares with them: ChaCha20 as one XOR with a keystream,
opening what was sealed, AEAD_ENC and AEAD_DEC with every region in range, the errors of a command, and the fields of the
state that a command reads.
-/

namespace Sys2Proof.Machine

/-! ### ChaCha20 (40_aead.md R88) -/

/-- The first `c` keystream blocks from block counter `j` on, one after the other. -/
def keystream (k : Bytes) (j : Nat) (nc : Bytes) (c : Nat) : Bytes :=
  (List.range c).flatMap fun i => chachaBlock k (j + i) nc

@[simp] theorem keystream_length (k : Bytes) (j : Nat) (nc : Bytes) (c : Nat) : (keystream k j nc c).length = 64 * c := by
  rw [keystream, length_flatMap_const _ _ 64 fun i _ => chachaBlock_length k (j + i) nc, List.length_range, Nat.mul_comm]

theorem keystream_succ (k : Bytes) (j : Nat) (nc : Bytes) (c : Nat) :
    keystream k j nc (c + 1) = keystream k j nc c ++ chachaBlock k (j + c) nc := by
  simp [keystream, List.range_succ]

theorem xorBytes_append_right (m a b : Bytes) :
    xorBytes m (a ++ b) = xorBytes m a ++ xorBytes (m.drop a.length) b := by
  induction a generalizing m with
  | nil => simp [xorBytes]
  | cons x a ih =>
    cases m with
    | nil => simp [xorBytes]
    | cons y m => exact congrArg (List.cons (y ^^^ x)) (ih m)

theorem xorBytes_take_left (m b : Bytes) : xorBytes (m.take b.length) b = xorBytes m b := by
  induction b generalizing m with
  | nil => simp [xorBytes]
  | cons x b ih =>
    cases m with
    | nil => rfl
    | cons y m => exact congrArg (List.cons (y ^^^ x)) (ih m)

theorem xorBytes_xorBytes_cancel (m b : Bytes) (h : m.length ≤ b.length) : xorBytes (xorBytes m b) b = m := by
  apply List.ext_getElem
  · simpa using h
  · intro i _ _
    simp [xorBytes]

/-- Block by block or at once: the message is XORed with the keystream. -/
theorem chachaXor_eq_xorBytes_keystream (k : Bytes) (j : Nat) (nc m : Bytes) :
    chachaXor k j nc m = xorBytes m (keystream k j nc ((m.length + 63) / 64)) := by
  rw [chachaXor]
  induction (m.length + 63) / 64 with
  | zero => simp [keystream, xorBytes]
  | succ c ih =>
    have hblock := xorBytes_take_left (m.drop (64 * c)) (chachaBlock k (j + c) nc)
    rw [chachaBlock_length] at hblock
    rw [List.range_succ, List.flatMap_append, ih, keystream_succ, xorBytes_append_right, keystream_length, ← hblock]
    simp [blockAt]

/-- Settles O54: the keystream depends on the message's length alone, and XOR with it cancels. -/
theorem chachaXorIsItsOwnInverse : Obligations.ChachaXorIsItsOwnInverse := by
  unfold Obligations.ChachaXorIsItsOwnInverse
  intro k nc m j
  have hlen : (chachaXor k j nc m).length = m.length := chachaXor_length k j nc m
  refine ⟨hlen, ?_⟩
  rw [chachaXor_eq_xorBytes_keystream k j nc (chachaXor k j nc m), hlen, chachaXor_eq_xorBytes_keystream k j nc m]
  apply xorBytes_xorBytes_cancel
  rw [keystream_length]
  omega

/-! ### The nonce (40_aead.md R91) -/

/-- Settles O53. -/
theorem nonceIsZerosAndCounter : Obligations.NonceIsZerosAndCounter := by
  unfold Obligations.NonceIsZerosAndCounter
  intro ctr
  have hdrop : (nonce ctr).drop 4 = leBytes 8 ctr.toNat := rfl
  refine ⟨by simp [nonce], rfl, ?_⟩
  rw [hdrop, leInt_leBytes]
  exact Nat.mod_eq_of_lt ctr.isLt

/-! ### Opening and sealing (40_aead.md R94, R95) -/

/-- The last 16 bytes are the tag, all of it compared. -/
theorem aeadOpen_append (k nc ad ct tag : Bytes) (h : tag.length = 16) :
    aeadOpen k nc ad (ct ++ tag) = if tag = aeadTag k nc ad ct then some (chachaXor k 1 nc ct) else none := by
  simp [aeadOpen, h]

theorem aeadOpen_aeadSeal (k nc ad pt : Bytes) : aeadOpen k nc ad (aeadSeal k nc ad pt) = some pt := by
  obtain ⟨-, hinv⟩ := chachaXorIsItsOwnInverse k nc pt 1
  rw [aeadSeal, aeadOpen_append _ _ _ _ _ (aeadTag_length ..), if_pos rfl, hinv]

/-! ### The regions of the AEAD commands (20_memory.md R60; 30_encoding.md R72, R77) -/

theorem State.inRange_iff_fits (s : State) (a : Word) (n : Nat) : s.inRange a n = true ↔ s.Fits a n := by
  simp [State.inRange, State.Fits]

theorem State.adInRange_iff_fits (s : State) (a : AdSource) :
    s.adInRange a = true ↔ (a = .region → s.Fits s.latched.ad s.latched.adlen.toNat) := by
  cases a <;> simp [State.adInRange, State.inRange_iff_fits]

theorem State.regionsInRange_aeadEnc (s : State) (a : AdSource) :
    s.regionsInRange (.aeadEnc a) = true ↔
      s.Fits s.latched.key 32 ∧ s.Fits s.latched.src s.latched.len.toNat
        ∧ (a = .region → s.Fits s.latched.ad s.latched.adlen.toNat) ∧ s.Fits s.latched.dst (s.latched.len.toNat + 16) := by
  simp [State.regionsInRange_eq, inRegions, outRegion, s.adRegion_inRange, s.inRange_iff_fits, s.adInRange_iff_fits,
    and_assoc]

theorem State.regionsInRange_aeadDec (s : State) (a : AdSource) :
    s.regionsInRange (.aeadDec a) = true ↔
      s.Fits s.latched.key 32 ∧ s.Fits s.latched.src s.latched.len.toNat
        ∧ (a = .region → s.Fits s.latched.ad s.latched.adlen.toNat) ∧ s.Fits s.latched.dst (s.latched.len.toNat - 16) := by
  simp [State.regionsInRange_eq, inRegions, outRegion, s.adRegion_inRange, s.inRange_iff_fits, s.adInRange_iff_fits,
    and_assoc]

/-! ### AEAD_ENC and AEAD_DEC with every region in range (40_aead.md R96, R97) -/

/-- What AEAD_ENC stores in state `s`. -/
def State.sealed (s : State) (a : AdSource) : Bytes :=
  aeadSeal (s.memRead s.latched.key 32) (nonce s.latched.ctr) (s.adBytes a) (s.memRead s.latched.src s.latched.len.toNat)

/-- What AEAD_DEC releases in state `s`, if the tag verifies. -/
def State.opened (s : State) (a : AdSource) : Option Bytes :=
  aeadOpen (s.memRead s.latched.key 32) (nonce s.latched.ctr) (s.adBytes a) (s.memRead s.latched.src s.latched.len.toNat)

@[simp] theorem State.sealed_length (s : State) (a : AdSource) : (s.sealed a).length = s.latched.len.toNat + 16 := by
  simp [State.sealed]

theorem State.opened_length {s : State} {a : AdSource} {pt : Bytes} (h : s.opened a = some pt) :
    pt.length = s.latched.len.toNat - 16 := by
  simpa using aeadOpen_length _ _ _ _ _ h

/-- A command that writes `v` at DST and completes with its length stores `v` and changes nothing else. -/
theorem State.stores_of_complete {s : State} {i : Instr} {v : Bytes}
    (h : exec i s = .next ((s.memWrite s.latched.dst v).complete v.length)) : s.Stores i v :=
  ⟨_, h, (s.memWrite s.latched.dst v).complete_recordsSuccess v.length,
    (s.memWrite s.latched.dst v).complete_sameControls v.length, ⟨rfl, rfl⟩, s.memWrite_readBytes s.latched.dst v,
    s.memWrite_read_outside s.latched.dst v⟩

theorem exec_aeadEnc {s : State} {a : AdSource} (h : s.regionsInRange (.aeadEnc a) = true) :
    exec (.aeadEnc a) s
      = .next ((s.memWrite s.latched.dst (s.sealed a)).complete (s.sealed a).length) := by
  rw [s.sealed_length]
  refine congrArg Host.Outcome.next (if_pos ?_)
  simpa [s.regionsInRange_eq, inRegions, outRegion, s.adRegion_inRange, and_assoc] using h

/-- With every region in range and room for a tag, the tag alone decides what AEAD_DEC does. -/
theorem exec_aeadDec {s : State} {a : AdSource} (hlen : 16 ≤ s.latched.len.toNat)
    (h : s.regionsInRange (.aeadDec a) = true) :
    exec (.aeadDec a) s
      = .next ((s.opened a).elim (s.raise .authFail)
          fun pt => (s.memWrite s.latched.dst pt).complete (s.latched.len.toNat - 16)) := by
  refine congrArg Host.Outcome.next ((if_neg (not_lt.mpr hlen)).trans ((if_pos ?_).trans ?_))
  · simpa [s.regionsInRange_eq, inRegions, outRegion, s.adRegion_inRange, and_assoc] using h
  · dsimp only
    rw [← State.opened]
    cases s.opened a <;> rfl

theorem State.stores_sealed {s : State} {a : AdSource} (h : s.regionsInRange (.aeadEnc a) = true) :
    s.Stores (.aeadEnc a) (s.sealed a) := State.stores_of_complete (exec_aeadEnc h)

theorem State.stores_opened {s : State} {a : AdSource} {pt : Bytes} (hlen : 16 ≤ s.latched.len.toNat)
    (h : s.regionsInRange (.aeadDec a) = true) (hopen : s.opened a = some pt) : s.Stores (.aeadDec a) pt := by
  refine State.stores_of_complete ?_
  rw [exec_aeadDec hlen h, hopen, State.opened_length hopen]
  rfl

theorem State.fails_authFail {s : State} {a : AdSource} (hlen : 16 ≤ s.latched.len.toNat)
    (h : s.regionsInRange (.aeadDec a) = true) (hopen : s.opened a = none) : s.Fails (.aeadDec a) .authFail := by
  refine State.fails_of_raise ?_
  rw [exec_aeadDec hlen h, hopen]
  rfl

/-- An input of `ct` and a 16-byte tag holds `LEN = len(ct) + 16` bytes. -/
theorem State.len_of_input {s : State} {ct tag : Bytes} (htag : tag.length = 16)
    (h : s.dmem.readBytes s.latched.src.toNat s.latched.len.toNat = ct ++ tag) :
    ct.length + 16 = s.latched.len.toNat := by
  have hlen := congrArg List.length h
  rw [Memory.readBytes_length, List.length_append, htag] at hlen
  exact hlen.symm

/-- What AEAD_DEC makes of an input of `ct` and a 16-byte tag. -/
theorem State.opened_of_input {s : State} {a : AdSource} {ct tag : Bytes} (htag : tag.length = 16)
    (h : s.dmem.readBytes s.latched.src.toNat s.latched.len.toNat = ct ++ tag) :
    s.opened a
      = if tag = aeadTag (s.memRead s.latched.key 32) (nonce s.latched.ctr) (s.adBytes a) ct then
          some (chachaXor (s.memRead s.latched.key 32) 1 (nonce s.latched.ctr) ct)
        else none := by
  rw [State.opened, State.memRead, State.memRead, h, aeadOpen_append _ _ _ _ _ htag]

/-- Settles O6. -/
theorem aeadEncStoresCiphertextAndTag : Obligations.AeadEncStoresCiphertextAndTag := by
  unfold Obligations.AeadEncStoresCiphertextAndTag
  intro a s hkey hsrc hadfits hdst k pt ad ct out
  have hregions := (s.regionsInRange_aeadEnc a).mpr ⟨hkey, hsrc, hadfits, hdst⟩
  have had : s.adBytes a = ad := by cases a <;> rfl
  have hout : s.sealed a = out := by rw [State.sealed, had, aeadSeal, ← tagWrittenOut_eq]; rfl
  rw [← hout]
  exact ⟨s.sealed_length a, State.stores_sealed hregions⟩

/-- Settles O7. -/
theorem aeadDecStoresVerifiedPlaintext : Obligations.AeadDecStoresVerifiedPlaintext := by
  unfold Obligations.AeadDecStoresVerifiedPlaintext
  intro a s ct hkey hsrc hadfits hdst k ad hin
  have hregions := (s.regionsInRange_aeadDec a).mpr ⟨hkey, hsrc, hadfits, hdst⟩
  have had : s.adBytes a = ad := by cases a <;> rfl
  rw [tagWrittenOut_eq, ← had] at hin
  have hlen := State.len_of_input (aeadTag_length ..) hin
  have hopen : s.opened a = some (chachaXor k 1 (nonce s.latched.ctr) ct) :=
    (State.opened_of_input (aeadTag_length ..) hin).trans (if_pos rfl)
  exact ⟨hlen, State.stores_opened (by omega) hregions hopen⟩

/-- Settles O8. -/
theorem aeadDecRejectsWrongTag : Obligations.AeadDecRejectsWrongTag := by
  unfold Obligations.AeadDecRejectsWrongTag
  intro a s ct tag hkey hsrc had hdst htag hin hne
  have hlen := State.len_of_input htag hin
  have hregions := (s.regionsInRange_aeadDec a).mpr ⟨hkey, hsrc, had, hdst⟩
  have hopen : s.opened a = none := by
    refine (State.opened_of_input htag hin).trans (if_neg ?_)
    cases a <;> exact hne
  exact State.fails_authFail (by omega) hregions hopen

/-- Settles O9: the length is tested before any region. -/
theorem aeadDecRejectsShortInput : Obligations.AeadDecRejectsShortInput := by
  unfold Obligations.AeadDecRejectsShortInput
  intro a s hlen
  exact State.fails_of_raise (congrArg Host.Outcome.next (if_pos hlen))

/-! ### The round trip (40_aead.md R99) -/

/-- An AEAD_ENC that completed with DONE had every region in range, and DST holds what it stores. -/
theorem readBytes_dst_of_aeadEnc_done {a : AdSource} {s t : State} (h : exec (.aeadEnc a) s = .next t)
    (hdone : t.done = true) : t.dmem.readBytes s.latched.dst.toNat (s.latched.len.toNat + 16) = s.sealed a := by
  cases hregions : s.regionsInRange (.aeadEnc a) with
  | true =>
    rw [exec_aeadEnc hregions] at h
    cases h
    rw [← s.sealed_length a]
    exact s.memWrite_readBytes s.latched.dst (s.sealed a)
  | false =>
    rw [exec_eq_raise_bounds hregions (by simp)] at h
    cases h
    simp at hdone

/-- Settles O55: AEAD_DEC reads the sealed plaintext, under the key, counter and associated data that sealed it. -/
theorem aeadRoundTrip : Obligations.AeadRoundTrip := by
  unfold Obligations.AeadRoundTrip
  refine ⟨aeadOpen_aeadSeal, ?_⟩
  intro a b s t u h hdone hkey had hctr hlen hin hukey husrc huad hudst pt
  have hregions := (u.regionsInRange_aeadDec b).mpr ⟨hukey, husrc, huad, hudst⟩
  have hopen : u.opened b = some pt := by
    have hsealed : u.memRead u.latched.src u.latched.len.toNat = s.sealed a :=
      hin.trans (readBytes_dst_of_aeadEnc_done h hdone)
    have hk : u.memRead u.latched.key 32 = s.memRead s.latched.key 32 := hkey
    rw [State.opened, hsealed, hk, had, hctr]
    exact aeadOpen_aeadSeal ..
  obtain ⟨v, hexec, hrec, ⟨hregs, -⟩, htrans, hread, hout⟩ := State.stores_opened (by omega) hregions hopen
  exact ⟨v, hexec, hrec, hread, hout, hregs, htrans⟩

/-! ### A command that ends with an error (60_exceptions.md R150) -/

/-- ERR = 1 means that the command ended with `raise E`. -/
theorem CommandEnd.eq_raise_of_err {i : Instr} {s t : State} (h : CommandEnd i s t) (he : t.err = true) :
    ∃ e, t = s.raise e := by
  cases h with
  | failed e => exact ⟨e, rfl⟩
  | stored | checked | restarted | updated => simp at he

/-- Settles O24: whichever way the completion came about, it was `raise E`. -/
theorem errorsArePrecise : Obligations.ErrorsArePrecise := by
  unfold Obligations.ErrorsArePrecise
  intro s t h herr
  have hraise : ∃ e, t = s.raise e := by
    rcases h with ⟨i, hexec⟩ | ⟨hc, hstep⟩
    · exact (exec_cases i s t hexec).eq_raise_of_err herr
    · rcases completion_ends hc hstep with ⟨i, -, hend⟩ | hill
      · exact hend.eq_raise_of_err herr
      · exact ⟨.illegal, hill⟩
  obtain ⟨e, rfl⟩ := hraise
  exact ⟨⟨e, s.raise_recordsError e⟩, s.raise_sameRegisters e, s.raise_sameTranscript e, s.raise_sameDmem e⟩

/-! ### What a command reads (44_control.md R141, R142) -/

/-- The two states agree on what a command reads: the latched record, DMEM and its size, the transcript. -/
structure State.SameInputs (s s' : State) : Prop where
  latched : s.latched = s'.latched
  dmem : s.dmem = s'.dmem
  dmemsz : s.dmemsz = s'.dmemsz
  h : s.h = s'.h
  hEmpty : s.hEmpty = s'.hEmpty

/-- The two states agree on what a command reports and writes. -/
def State.SameResult (t t' : State) : Prop :=
  t.dmem = t'.dmem ∧ t.h = t'.h ∧ t.hEmpty = t'.hEmpty
    ∧ t.done = t'.done ∧ t.err = t'.err ∧ t.errcode = t'.errcode ∧ t.lastop = t'.lastop ∧ t.outlen = t'.outlen

namespace State.SameInputs

variable {s s' : State}

theorem raise (h : s.SameInputs s') (e : ErrCode) : (s.raise e).SameResult (s'.raise e) :=
  ⟨h.dmem, h.h, h.hEmpty, rfl, rfl, rfl, congrArg Latched.op h.latched, rfl⟩

theorem complete (h : s.SameInputs s') (n : Nat) : (s.complete n).SameResult (s'.complete n) :=
  ⟨h.dmem, h.h, h.hEmpty, rfl, rfl, rfl, congrArg Latched.op h.latched, rfl⟩

theorem memWrite (h : s.SameInputs s') (a : Word) (v : Bytes) : (s.memWrite a v).SameInputs (s'.memWrite a v) :=
  ⟨h.latched, congrArg (·.writeBytes a.toNat v) h.dmem, h.dmemsz, h.h, h.hEmpty⟩

theorem withTranscript (h : s.SameInputs s') (x : Vector Byte 32) (b : Bool) :
    State.SameInputs { s with h := x, hEmpty := b } { s' with h := x, hEmpty := b } :=
  ⟨h.latched, h.dmem, h.dmemsz, rfl, rfl⟩

theorem inRange_eq (h : s.SameInputs s') (a : Word) (n : Nat) : s.inRange a n = s'.inRange a n := by
  rw [State.inRange, State.inRange, h.dmemsz]

theorem adInRange_eq (h : s.SameInputs s') (a : AdSource) : s.adInRange a = s'.adInRange a := by
  cases a <;> simp [State.adInRange, h.latched, h.inRange_eq]

theorem memRead_eq (h : s.SameInputs s') (a : Word) (n : Nat) : s.memRead a n = s'.memRead a n := by
  rw [State.memRead, State.memRead, h.dmem]

theorem adBytes_eq (h : s.SameInputs s') (a : AdSource) : s.adBytes a = s'.adBytes a := by
  cases a <;> simp [State.adBytes, h.latched, h.memRead_eq, h.h]

theorem nextTranscript_eq (h : s.SameInputs s') (d : Bytes) : s.nextTranscript d = s'.nextTranscript d := by
  rw [State.nextTranscript, State.nextTranscript, h.h, h.hEmpty]

end State.SameInputs

theorem State.SameResult.ite {t t' u u' : State} {c : Prop} [Decidable c] (hthen : t.SameResult t')
    (helse : u.SameResult u') : (if c then t else u).SameResult (if c then t' else u') := by
  split
  · exact hthen
  · exact helse

/-- Command by command: each test reads the inputs alone, and both its branches give the same result. -/
theorem exec_sameResult_of_sameInputs {s s' : State} (h : s.SameInputs s') (i : Instr) :
    ∃ t t', exec i s = .next t ∧ exec i s' = .next t' ∧ t.SameResult t' := by
  cases i with
  | nop => exact ⟨_, _, rfl, rfl, h.complete 0⟩
  | aeadEnc a =>
    refine ⟨_, _, rfl, rfl, ?_⟩
    simp only [h.latched, h.inRange_eq, h.adInRange_eq, h.memRead_eq, h.adBytes_eq]
    exact .ite ((h.memWrite _ _).complete _) (h.raise _)
  | aeadDec a =>
    refine ⟨_, _, rfl, rfl, ?_⟩
    simp only [h.latched, h.inRange_eq, h.adInRange_eq, h.memRead_eq, h.adBytes_eq]
    refine .ite (h.raise _) (.ite ?_ (h.raise _))
    split
    · exact (h.memWrite _ _).complete _
    · exact h.raise _
  | ecdh =>
    refine ⟨_, _, rfl, rfl, ?_⟩
    simp only [h.latched, h.inRange_eq, h.memRead_eq]
    refine .ite ?_ (h.raise _)
    split
    · exact h.raise _
    · exact .ite ((h.memWrite _ _).complete _) (h.raise _)
  | ecpub =>
    refine ⟨_, _, rfl, rfl, ?_⟩
    simp only [h.latched, h.inRange_eq, h.memRead_eq]
    exact .ite (.ite ((h.memWrite _ _).complete _) (h.raise _)) (h.raise _)
  | pkcheck =>
    refine ⟨_, _, rfl, rfl, ?_⟩
    simp only [h.latched, h.inRange_eq, h.memRead_eq]
    refine .ite ?_ (h.raise _)
    split
    · exact h.raise _
    · exact h.complete _
  | hinit => exact ⟨_, _, rfl, rfl, (h.withTranscript _ _).complete 0⟩
  | hupd =>
    refine ⟨_, _, rfl, rfl, ?_⟩
    simp only [congrArg Latched.src h.latched, congrArg Latched.len h.latched, h.inRange_eq, h.memRead_eq,
      h.nextTranscript_eq]
    exact .ite ((h.withTranscript _ _).complete 0) (h.raise _)
  | hkdf | hread | sha | zero =>
    refine ⟨_, _, rfl, rfl, ?_⟩
    simp only [h.latched, h.inRange_eq, h.memRead_eq, h.h]
    exact .ite ((h.memWrite _ _).complete _) (h.raise _)

/-- Settles O25, the agreement on the inputs being `SameInputs`. -/
theorem commandsReadOnlyLatchedOperands : Obligations.CommandsReadOnlyLatchedOperands := by
  unfold Obligations.CommandsReadOnlyLatchedOperands
  intro i s s' hlatched hdmem hsize hh hempty
  exact exec_sameResult_of_sameInputs ⟨hlatched, hdmem, hsize, hh, hempty⟩ i

end Sys2Proof.Machine

/-!
PROOFS. secp256k1 and the commands on it (spec/41_ecdh.md): the curve has no point of order 2, its group has the prime
order `n`, `compress` and `decompress` are inverse to each other, and what ECDH, ECPUB and PKCHECK do with every region
in range.
-/

namespace Sys2Proof.Machine

/-! ### Multiples of a point (41_ecdh.md R105, R112) -/

/-- Only the point at infinity stands for the zero of the group. -/
theorem Represents.eq_infinity_iff {q : Point} {Q : secpCurve.Point} (h : Represents q Q) : q = .infinity ↔ Q = 0 := by
  constructor
  · rintro rfl
    cases h
    rfl
  · rintro rfl
    exact h.inj .inf

theorem onCurve_secpG : onCurve secpG = true := by decide +kernel

/-- Settles O57: both sides stand for the same multiple in the group of the curve. -/
theorem scalarMultiplicationRecursion : Obligations.ScalarMultiplicationRecursion := by
  unfold Obligations.ScalarMultiplicationRecursion
  intro q hq
  have := secpP_fact
  obtain ⟨Q, hQ⟩ := exists_represents hq
  refine ⟨by simp [pointMul, pointMulAdd], fun k hk => ?_⟩
  have hsucc : (k - 1) • Q + Q = k • Q := by rw [← succ_nsmul, Nat.sub_add_cancel hk]
  exact (hQ.mul k).inj (hsucc ▸ (hQ.mul (k - 1)).add hQ)

theorem pointMul_comm (a b : Nat) {q : Point} (hq : onCurve q = true) :
    pointMul a (pointMul b q) = pointMul b (pointMul a q) := by
  have := secpP_fact
  obtain ⟨Q, hQ⟩ := exists_represents hq
  have hcomm : b • a • Q = a • b • Q := by rw [← mul_nsmul, ← mul_nsmul', mul_comm]
  exact ((hQ.mul b).mul a).inj (hcomm ▸ (hQ.mul a).mul b)

/-- Settles O60: the two secrets are hashes of the same multiple of G. -/
theorem ecdhIsSymmetric : Obligations.EcdhIsSymmetric := by
  unfold Obligations.EcdhIsSymmetric
  intro a b _ _ _ _
  rw [sharedSecret, sharedSecret, pointMul_comm a b onCurve_secpG]

/-! ### No point has order 2 (41_ecdh.md R109) -/

theorem cast_secpP_sub {a : Nat} (h : a ≤ secpP) : ((secpP - a : Nat) : Fp) = -(a : Fp) := by
  rw [Nat.cast_sub h, ZMod.natCast_self, zero_sub]

/-- By Euler's criterion for cubes: a cube other than 0 has the `(p - 1) / 3`-th power 1, and `-7` has another. -/
theorem cube_add_seven_ne_zero (x : Fp) : x ^ 3 + 7 ≠ 0 := by
  have := secpP_fact
  intro h
  have h7 : ((secpP - 7 : Nat) : Fp) = x ^ 3 := by
    rw [cast_secpP_sub (by decide)]
    linear_combination -h
  have hx : x ≠ 0 := by
    rintro rfl
    have h0 : ((7 : Nat) : Fp) = (0 : Nat) := by simpa using h
    rw [castP_inj (by decide) (by decide)] at h0
    omega
  have hpow : ((powMod secpP 256 (secpP - 7) ((secpP - 1) / 3) : Nat) : Fp) = (1 : Nat) := by
    rw [powMod_eq _ _ _ _ (by decide), cast_mod, Nat.cast_pow, h7, ← pow_mul,
      show 3 * ((secpP - 1) / 3) = secpP - 1 by decide, ZMod.pow_card_sub_one_eq_one hx, Nat.cast_one]
  have hne : powMod secpP 256 (secpP - 7) ((secpP - 1) / 3) % secpP ≠ 1 % secpP := by decide +kernel
  exact hne ((ZMod.natCast_eq_natCast_iff' ..).mp hpow)

theorem cube_add_seven_mod_ne_zero (x : Nat) : (x ^ 3 + 7) % secpP ≠ 0 := by
  intro h
  refine cube_add_seven_ne_zero x ?_
  have hcast : ((x ^ 3 + 7 : Nat) : Fp) = 0 := (ZMod.natCast_eq_zero_iff ..).mpr (Nat.dvd_of_mod_eq_zero h)
  exact_mod_cast hcast

theorem ordinate_ne_zero {x y : Fp} (h : secpCurve.Equation x y) : y ≠ 0 := by
  rintro rfl
  refine cube_add_seven_ne_zero x ?_
  simpa [secpCurve] using ((WeierstrassCurve.Affine.equation_iff ..).mp h).symm

theorem secpCurve_negY (x y : Fp) : secpCurve.negY x y = -y := by simp [WeierstrassCurve.Affine.negY, secpCurve]

theorem secpP_odd : secpP % 2 = 1 := by decide

/-- `y` and `p - y` have different parities. -/
theorem neg_val_mod_two_ne {y : Fp} (hy : y ≠ 0) : (-y).val % 2 ≠ y.val % 2 := by
  have := secpP_fact
  have hlt := ZMod.val_lt y
  have hodd := secpP_odd
  rw [ZMod.neg_val, if_neg hy]
  omega

theorem eq_zero_of_neg_eq_self {P : secpCurve.Point} (h : -P = P) : P = 0 := by
  cases P with
  | zero => rfl
  | some x y hP =>
    rw [WeierstrassCurve.Affine.Point.neg_some, WeierstrassCurve.Affine.Point.some.injEq, secpCurve_negY] at h
    exact absurd (congrArg (ZMod.val · % 2) h.2) (neg_val_mod_two_ne (ordinate_ne_zero hP.1))

/-! ### The group of the curve has order `n` (41_ecdh.md R102, R110) -/

/-- What the encoding of R107 keeps of an affine point: its abscissa and the parity of its ordinate. As no two points share
it, it bounds their number. -/
def abscissaAndParity : secpCurve.Point → Option (Fp × Fin 2)
  | .zero => none
  | .some x y _ => some (x, Fin.ofNat 2 y.val)

theorem abscissaAndParity_injective : Function.Injective abscissaAndParity := by
  have := secpP_fact
  intro P Q h
  cases P with
  | zero =>
    cases Q with
    | zero => rfl
    | some x' y' hQ => simp [abscissaAndParity] at h
  | some x y hP =>
    cases Q with
    | zero => simp [abscissaAndParity] at h
    | some x' y' hQ =>
      simp only [abscissaAndParity, Option.some.injEq, Prod.mk.injEq, Fin.ext_iff, Fin.val_ofNat] at h
      obtain ⟨hx, hparity⟩ := h
      refine (WeierstrassCurve.Affine.Point.X_eq_iff.mp hx).resolve_right fun hneg => ?_
      rw [WeierstrassCurve.Affine.Point.neg_some, WeierstrassCurve.Affine.Point.some.injEq, secpCurve_negY] at hneg
      exact neg_val_mod_two_ne (ordinate_ne_zero hQ.1) (hneg.2 ▸ hparity)

theorem finite_points : Finite secpCurve.Point :=
  have := secpP_fact
  Finite.of_injective _ abscissaAndParity_injective

theorem card_points_le : Nat.card secpCurve.Point ≤ 2 * secpP + 1 := by
  have := secpP_fact
  have hle := Nat.card_le_card_of_injective _ abscissaAndParity_injective
  rw [Finite.card_option, Nat.card_prod, Nat.card_zmod, Nat.card_fin] at hle
  omega

theorem pointMul_secpN_secpG : pointMul secpN secpG = .infinity := by decide +kernel

/-- The generator has order `n`. -/
theorem secpN_dvd_card_points : secpN ∣ Nat.card secpCurve.Point := by
  have := secpP_fact
  have : Fact secpN.Prime := ⟨secpN_prime⟩
  obtain ⟨G, hG⟩ := exists_represents onCurve_secpG
  have hne : G ≠ 0 := hG.eq_infinity_iff.not.mp (by simp [secpG])
  have hmul : secpN • G = 0 := (hG.mul secpN).eq_infinity_iff.mp pointMul_secpN_secpG
  exact addOrderOf_eq_prime hmul hne ▸ addOrderOf_dvd_natCard G

/-- By Cauchy's theorem, a group of even order has a point of order 2. -/
theorem card_points_odd : ¬ 2 ∣ Nat.card secpCurve.Point := by
  have := secpP_fact
  have := finite_points
  intro h
  obtain ⟨P, hP⟩ := exists_prime_addOrderOf_dvd_card' 2 h
  obtain ⟨htwo, hne⟩ := addOrderOf_eq_prime_iff.mp hP
  rw [two_nsmul] at htwo
  exact hne (eq_zero_of_neg_eq_self (neg_eq_of_add_eq_zero_left htwo))

/-- The order is a positive multiple of `n`, odd, and less than `3 n`. -/
theorem card_points : Nat.card secpCurve.Point = secpN := by
  have := secpP_fact
  have := finite_points
  obtain ⟨c, hc⟩ := secpN_dvd_card_points
  have hpos : 0 < Nat.card secpCurve.Point := Nat.card_pos
  have hodd := card_points_odd
  have hlt : secpN * c < secpN * 3 := hc ▸ card_points_le.trans_lt (by decide)
  have hc3 : c < 3 := Nat.lt_of_mul_lt_mul_left hlt
  interval_cases c
  · omega
  · omega
  · exact absurd (hc ▸ Dvd.intro_left secpN rfl) hodd

/-- Settles O59: the order of a point divides the prime `n`, and would divide the scalar too. -/
theorem validScalarsNeverGiveInfinity : Obligations.ValidScalarsNeverGiveInfinity := by
  unfold Obligations.ValidScalarsNeverGiveInfinity
  intro k q hk hkn hq hne hinf
  have := secpP_fact
  obtain ⟨Q, hQ⟩ := exists_represents hq
  have hk0 : k • Q = 0 := (hQ.mul k).eq_infinity_iff.mp hinf
  have hQ0 : Q ≠ 0 := hQ.eq_infinity_iff.not.mp hne
  rcases (Nat.dvd_prime secpN_prime).mp (card_points ▸ addOrderOf_dvd_natCard Q) with hone | hn
  · exact hQ0 (AddMonoid.addOrderOf_eq_one_iff.mp hone)
  · have hle : secpN ≤ k := Nat.le_of_dvd hk (hn ▸ addOrderOf_dvd_of_nsmul_eq_zero hk0)
    have := secpN_prime.pos
    omega

/-! ### compress and decompress are inverse to each other (41_ecdh.md R107 to R109) -/

theorem onCurve_affine_iff (x y : Nat) :
    onCurve (.affine x y) = true ↔ x < secpP ∧ y < secpP ∧ y ^ 2 % secpP = (x ^ 3 + 7) % secpP := by
  simp [onCurve, and_assoc]

theorem onCurve_affine_pos {x y : Nat} (h : onCurve (.affine x y) = true) : 0 < y := by
  obtain ⟨-, -, heq⟩ := (onCurve_affine_iff x y).mp h
  refine Nat.pos_of_ne_zero ?_
  rintro rfl
  exact cube_add_seven_mod_ne_zero x heq.symm

theorem sq_mod_eq_iff {y z : Nat} : y ^ 2 % secpP = z ^ 2 % secpP ↔ (y : Fp) ^ 2 = (z : Fp) ^ 2 := by
  rw [← ZMod.natCast_eq_natCast_iff', Nat.cast_pow, Nat.cast_pow]

theorem sub_sq_mod {y : Nat} (h : y ≤ secpP) : (secpP - y) ^ 2 % secpP = y ^ 2 % secpP := by
  rw [sq_mod_eq_iff, cast_secpP_sub h, neg_sq]

/-- The negative of an affine point is on the curve. -/
theorem onCurve_affine_sub {x y : Nat} (h : onCurve (.affine x y) = true) : onCurve (.affine x (secpP - y)) = true := by
  have hpos := onCurve_affine_pos h
  obtain ⟨hx, hy, heq⟩ := (onCurve_affine_iff x y).mp h
  exact (onCurve_affine_iff ..).mpr ⟨hx, by omega, (sub_sq_mod hy.le).trans heq⟩

/-- A residue has at most the two square roots `y` and `p - y`. -/
theorem eq_or_eq_sub_of_sq_mod_eq {y z : Nat} (hy : y < secpP) (hpos : 0 < y) (hz : z < secpP)
    (h : z ^ 2 % secpP = y ^ 2 % secpP) : z = y ∨ z = secpP - y := by
  have := secpP_fact
  refine (sq_eq_sq_iff_eq_or_eq_neg.mp (sq_mod_eq_iff.mp h)).imp (castP_inj hz hy).mp fun hneg => ?_
  rw [← cast_secpP_sub hy.le] at hneg
  exact (castP_inj hz (by omega)).mp hneg

/-- The square root of `x^3 + 7` that `decompress` tries (41_ecdh.md R108). -/
def trialRoot (x : Nat) : Nat := powMod secpP 256 ((x ^ 3 + 7) % secpP) ((secpP + 1) / 4)

theorem trialRoot_eq (x : Nat) : trialRoot x = ((x ^ 3 + 7) % secpP) ^ ((secpP + 1) / 4) % secpP :=
  powMod_eq _ _ _ _ (by decide)

theorem trialRoot_lt (x : Nat) : trialRoot x < secpP := trialRoot_eq x ▸ Nat.mod_lt _ secpP_pos

/-- Where `x^3 + 7` is a square `y^2`, its `(p + 1) / 4`-th power is a root of it, because `y^(p + 1) = y^2`. -/
theorem trialRoot_sq {x y : Nat} (h : y ^ 2 % secpP = (x ^ 3 + 7) % secpP) :
    trialRoot x ^ 2 % secpP = y ^ 2 % secpP := by
  have := secpP_fact
  have hexp : 2 * ((secpP + 1) / 4 * 2) = secpP + 1 := by decide
  rw [sq_mod_eq_iff, trialRoot_eq, ← h, cast_mod, Nat.cast_pow, cast_mod, Nat.cast_pow, ← pow_mul, ← pow_mul, hexp,
    pow_succ, ZMod.pow_card, sq]

theorem decompress_cons (b0 : Byte) (bs : Bytes) :
    decompress (b0 :: bs) =
      if b0 ≠ 0x02 ∧ b0 ≠ 0x03 then none
      else if secpP ≤ beInt bs then none
      else if trialRoot (beInt bs) ^ 2 % secpP ≠ (beInt bs ^ 3 + 7) % secpP then none
      else if trialRoot (beInt bs) % 2 ≠ b0.toNat - 0x02 then some (.affine (beInt bs) (secpP - trialRoot (beInt bs)))
      else some (.affine (beInt bs) (trialRoot (beInt bs))) := rfl

/-- The first byte of R107: 0x02 for an even ordinate, 0x03 for an odd one. -/
theorem eq_parityByte_iff (b0 : Byte) (y : Nat) :
    b0 = BitVec.ofNat 8 (0x02 + y % 2) ↔ (b0 = 0x02 ∨ b0 = 0x03) ∧ y % 2 = b0.toNat - 0x02 := by
  rcases Nat.mod_two_eq_zero_or_one y with h | h <;> rw [h] <;> revert b0 <;> decide

theorem sub_mod_two_ne {y : Nat} (h : y ≤ secpP) : (secpP - y) % 2 ≠ y % 2 := by
  have := secpP_odd
  omega

/-- What `decompress` finds is on the curve, and its ordinate has the parity of the first byte. -/
theorem exists_onCurve_of_decompress {b0 : Byte} {bs : Bytes} {q : Point} (h : decompress (b0 :: bs) = some q) :
    ∃ y, q = .affine (beInt bs) y ∧ onCurve q = true ∧ b0 = BitVec.ofNat 8 (0x02 + y % 2) := by
  rw [decompress_cons] at h
  split_ifs at h with hbyte hx hsq hparity
  all_goals
    obtain rfl := Option.some.inj h
    have hb0 : b0 = 0x02 ∨ b0 = 0x03 := (not_and_or.mp hbyte).imp not_not.mp not_not.mp
    have hcurve := (onCurve_affine_iff ..).mpr ⟨not_le.mp hx, trialRoot_lt _, not_not.mp hsq⟩
  · have hroot := sub_mod_two_ne (trialRoot_lt (beInt bs)).le
    refine ⟨_, rfl, onCurve_affine_sub hcurve, (eq_parityByte_iff ..).mpr ⟨hb0, ?_⟩⟩
    have hbit : b0.toNat - 0x02 < 2 := by rcases hb0 with rfl | rfl <;> decide
    omega
  · exact ⟨_, rfl, hcurve, (eq_parityByte_iff ..).mpr ⟨hb0, not_not.mp hparity⟩⟩

/-- `decompress` finds every affine point of the curve under the first byte of its parity. -/
theorem decompress_of_onCurve {bs : Bytes} {y : Nat} (h : onCurve (.affine (beInt bs) y) = true) :
    decompress (BitVec.ofNat 8 (0x02 + y % 2) :: bs) = some (.affine (beInt bs) y) := by
  obtain ⟨hx, hy, heq⟩ := (onCurve_affine_iff ..).mp h
  obtain ⟨hbyte, hparity⟩ := (eq_parityByte_iff _ y).mp rfl
  have hsq := trialRoot_sq heq
  rw [decompress_cons, if_neg fun hne => hbyte.elim hne.1 hne.2, if_neg (not_le.mpr hx),
    if_neg (not_not.mpr (hsq.trans heq)), ← hparity]
  rcases eq_or_eq_sub_of_sq_mod_eq hy (onCurve_affine_pos h) (trialRoot_lt _) hsq with hroot | hroot
  · rw [hroot, if_neg (not_not.mpr rfl)]
  · rw [hroot, if_pos (sub_mod_two_ne hy.le), Nat.sub_sub_self hy.le]

/-- Settles O58. -/
theorem compressInvertsDecompress : Obligations.CompressInvertsDecompress := by
  unfold Obligations.CompressInvertsDecompress
  refine ⟨cube_add_seven_mod_ne_zero, ?_⟩
  intro b q hlen h
  obtain ⟨b0, bs, rfl⟩ := List.exists_cons_of_length_eq_add_one hlen
  obtain ⟨y, rfl, hcurve, hb0⟩ := exists_onCurve_of_decompress h
  have hlt : y < secpP := ((onCurve_affine_iff ..).mp hcurve).2.1
  have hbs : beBytes 32 (beInt bs) = bs := Nat.succ.inj hlen ▸ beBytes_beInt bs
  refine ⟨hcurve, ?_, beInt bs, y, rfl, onCurve_affine_pos hcurve, hlt, sub_mod_two_ne hlt.le,
    decompress_of_onCurve (onCurve_affine_sub hcurve)⟩
  rw [compress, hbs, hb0]

/-! ### ECDH, ECPUB and PKCHECK with every region in range (41_ecdh.md R113 to R115) -/

theorem validScalar_iff (sk : Bytes) : validScalar sk = true ↔ 1 ≤ beInt sk ∧ beInt sk ≤ secpN - 1 := by
  simp [validScalar]

theorem validScalar_eq_false {sk : Bytes} (h : beInt sk = 0 ∨ secpN ≤ beInt sk) : validScalar sk = false := by
  have hn : 0 < secpN := by decide
  rw [Bool.eq_false_iff, Ne, validScalar_iff]
  omega

theorem exec_ecdh {s : State} (hsrc : s.Fits s.latched.src 33) (hkey : s.Fits s.latched.key 32)
    (hdst : s.Fits s.latched.dst 32) :
    exec .ecdh s
      = .next ((decompress (s.memRead s.latched.src 33)).elim (s.raise .invalidPubkey) fun q =>
          if validScalar (s.memRead s.latched.key 32) then
            (s.memWrite s.latched.dst (sharedSecret q (beInt (s.memRead s.latched.key 32))).toList).complete 32
          else s.raise .invalidSeckey) := by
  refine congrArg Host.Outcome.next ((if_pos ?_).trans ?_)
  · simp [s.inRange_iff_fits, hsrc, hkey, hdst]
  · cases decompress (s.memRead s.latched.src 33) <;> dsimp only [Option.elim_none, Option.elim_some]

theorem exec_ecpub {s : State} (hkey : s.Fits s.latched.key 32) (hdst : s.Fits s.latched.dst 33) :
    exec .ecpub s
      = .next (if validScalar (s.memRead s.latched.key 32) then
          (s.memWrite s.latched.dst (compress (pointMul (beInt (s.memRead s.latched.key 32)) secpG))).complete 33
        else s.raise .invalidSeckey) := by
  refine congrArg Host.Outcome.next (if_pos ?_)
  simp [s.inRange_iff_fits, hkey, hdst]

theorem exec_pkcheck {s : State} (hsrc : s.Fits s.latched.src 33) :
    exec .pkcheck s
      = .next ((decompress (s.memRead s.latched.src 33)).elim (s.raise .invalidPubkey) fun _ => s.complete 0) := by
  refine congrArg Host.Outcome.next ((if_pos ((s.inRange_iff_fits ..).mpr hsrc)).trans ?_)
  cases decompress (s.memRead s.latched.src 33) <;> rfl

/-- Settles O10. -/
theorem ecdhStoresSharedSecret : Obligations.EcdhStoresSharedSecret := by
  unfold Obligations.EcdhStoresSharedSecret
  intro s q hsrc hkey hdst hpub k hone hmax
  have hpub : decompress (s.memRead s.latched.src 33) = some q := hpub
  have hvalid : validScalar (s.memRead s.latched.key 32) = true := (validScalar_iff _).mpr ⟨hone, hmax⟩
  refine State.stores_of_complete ?_
  rw [exec_ecdh hsrc hkey hdst, hpub, Option.elim_some, if_pos hvalid, Vector.length_toList]
  rfl

/-- Settles O11. -/
theorem ecpubStoresPublicKey : Obligations.EcpubStoresPublicKey := by
  unfold Obligations.EcpubStoresPublicKey
  intro s hkey hdst k hone hmax
  have hvalid : validScalar (s.memRead s.latched.key 32) = true := (validScalar_iff _).mpr ⟨hone, hmax⟩
  refine ⟨compress_length _, State.stores_of_complete ?_⟩
  rw [exec_ecpub hkey hdst, if_pos hvalid, compress_length]
  rfl

/-- Settles O12. -/
theorem pkcheckAcceptsValidKey : Obligations.PkcheckAcceptsValidKey := by
  unfold Obligations.PkcheckAcceptsValidKey
  intro s hsrc hpub
  obtain ⟨q, hq⟩ := Option.isSome_iff_exists.mp hpub
  have hexec : exec .pkcheck s = .next (s.complete 0) := by
    rw [exec_pkcheck hsrc, State.memRead, hq, Option.elim_some]
  exact ⟨_, hexec, s.complete_recordsSuccess 0, s.complete_sameControls 0, ⟨rfl, rfl⟩, fun _ _ => rfl⟩

/-- Settles O13: neither command looks at the scalar before the key. -/
theorem invalidPublicKeysAreRejected : Obligations.InvalidPublicKeysAreRejected := by
  unfold Obligations.InvalidPublicKeysAreRejected
  intro s hsrc hpub
  refine ⟨State.fails_of_raise ?_, fun hkey hdst => State.fails_of_raise ?_⟩
  · rw [exec_pkcheck hsrc, State.memRead, hpub, Option.elim_none]
  · rw [exec_ecdh hsrc hkey hdst, State.memRead, hpub, Option.elim_none]

/-- Settles O14. -/
theorem invalidScalarsAreRejected : Obligations.InvalidScalarsAreRejected := by
  unfold Obligations.InvalidScalarsAreRejected
  intro s hkey hscalar
  have hinvalid : validScalar (s.memRead s.latched.key 32) = false := validScalar_eq_false hscalar
  refine ⟨fun hdst => State.fails_of_raise ?_, fun hsrc hdst hpub => State.fails_of_raise ?_⟩
  · rw [exec_ecpub hkey hdst, hinvalid, if_neg Bool.false_ne_true]
  · obtain ⟨q, hq⟩ := Option.isSome_iff_exists.mp hpub
    have hq : decompress (s.memRead s.latched.src 33) = some q := hq
    rw [exec_ecdh hsrc hkey hdst, hq, Option.elim_some, hinvalid, if_neg Bool.false_ne_true]

end Sys2Proof.Machine

/-!
PROOFS. The command HKDF (spec/42_hkdf.md): its two output keys in terms of the HMAC written out from R117, and what it
does with every region in range.
-/

namespace Sys2Proof.Machine

/-! ### Extract and Expand (42_hkdf.md R118 to R120) -/

/-- The two blocks of Expand with the empty info field, under the key that Extract gives. -/
theorem hkdf_eq_hmacWrittenOut (salt ikm : Bytes) :
    hkdf salt ikm
      = hmacWrittenOut (hmacWrittenOut salt ikm) [0x01]
        ++ hmacWrittenOut (hmacWrittenOut salt ikm) (hmacWrittenOut (hmacWrittenOut salt ikm) [0x01] ++ [0x02]) := by
  simp only [hmacWrittenOut_eq, hkdf]

/-! ### HKDF with every region in range (42_hkdf.md R121) -/

theorem exec_hkdf {s : State} (hkey : s.Fits s.latched.key 32) (hsrc : s.Fits s.latched.src s.latched.len.toNat)
    (hdst : s.Fits s.latched.dst 64) :
    exec .hkdf s
      = .next ((s.memWrite s.latched.dst
          (hkdf (s.memRead s.latched.key 32) (s.memRead s.latched.src s.latched.len.toNat))).complete 64) := by
  refine congrArg Host.Outcome.next (if_pos ?_)
  simp [s.inRange_iff_fits, hkey, hsrc, hdst]

/-- Settles O15. -/
theorem hkdfStoresBothKeys : Obligations.HkdfStoresBothKeys := by
  unfold Obligations.HkdfStoresBothKeys
  intro s hkey hsrc hdst salt ikm prk t1 t2
  have hkeys : t1 ++ t2 = hkdf salt ikm := (hkdf_eq_hmacWrittenOut salt ikm).symm
  rw [hkeys]
  refine ⟨hkdf_length salt ikm, State.stores_of_complete ?_⟩
  rw [exec_hkdf hkey hsrc hdst, hkdf_length]
  rfl

end Sys2Proof.Machine

/-!
PROOFS. The transcript (spec/43_transcript.md): the padding of SHA-256, what HINIT, HUPD, HREAD and SHA do with every
region in range, and which steps write `H` and `H_EMPTY`.
-/

namespace Sys2Proof.Machine

/-! ### The padding of SHA-256 (43_transcript.md R126) -/

/-- The numbers of zeros that fill a message of `n` bytes up to whole blocks are those with one rest modulo 64. -/
theorem paddedLength_mod_iff (n y : Nat) : (n + 1 + y + 8) % 64 = 0 ↔ y % 64 = (55 + 64 - n % 64) % 64 := by omega

/-- Settles O56: the model's number of zeros is that rest itself, so no other number with it is smaller. -/
theorem shaPaddingIsLeast : Obligations.ShaPaddingIsLeast := by
  unfold Obligations.ShaPaddingIsLeast
  intro m
  refine ⟨(55 + 64 - m.length % 64) % 64, rfl, ?_, fun y hy => ?_⟩
  · rw [paddedLength_mod_iff, Nat.mod_mod]
  · rw [← (paddedLength_mod_iff m.length y).mp hy]
    exact Nat.mod_le y 64

/-! ### The commands of the transcript with every region in range (43_transcript.md R130 to R133) -/

theorem State.nextTranscript_of_empty {s : State} (d : Bytes) (h : s.hEmpty = true) : s.nextTranscript d = sha256 d :=
  if_pos h

theorem State.nextTranscript_of_not_empty {s : State} (d : Bytes) (h : s.hEmpty = false) :
    s.nextTranscript d = sha256 (s.h.toList ++ d) := if_neg (by simp [h])

theorem exec_hinit (s : State) :
    exec .hinit s = .next (State.complete { s with h := Vector.replicate 32 0, hEmpty := true } 0) := rfl

theorem exec_hupd {s : State} (hsrc : s.Fits s.latched.src s.latched.len.toNat) :
    exec .hupd s
      = .next (State.complete
          { s with h := s.nextTranscript (s.memRead s.latched.src s.latched.len.toNat), hEmpty := false } 0) :=
  congrArg Host.Outcome.next (if_pos ((s.inRange_iff_fits ..).mpr hsrc))

theorem exec_hread {s : State} (hdst : s.Fits s.latched.dst 32) :
    exec .hread s = .next ((s.memWrite s.latched.dst s.h.toList).complete 32) :=
  congrArg Host.Outcome.next (if_pos ((s.inRange_iff_fits ..).mpr hdst))

theorem exec_sha {s : State} (hsrc : s.Fits s.latched.src s.latched.len.toNat) (hdst : s.Fits s.latched.dst 32) :
    exec .sha s
      = .next ((s.memWrite s.latched.dst
          (sha256 (s.memRead s.latched.src s.latched.len.toNat)).toList).complete 32) := by
  refine congrArg Host.Outcome.next (if_pos ?_)
  simp [s.inRange_iff_fits, hsrc, hdst]

/-- A completion after a write of the transcript alone records success and leaves the registers and DMEM. -/
theorem State.complete_withTranscript_frame (s : State) (x : Vector Byte 32) (b : Bool) :
    s.RecordsSuccess (State.complete { s with h := x, hEmpty := b } 0) 0
      ∧ s.SameControls (State.complete { s with h := x, hEmpty := b } 0)
      ∧ s.SameDmem (State.complete { s with h := x, hEmpty := b } 0) :=
  ⟨State.complete_recordsSuccess { s with h := x, hEmpty := b } 0,
    State.complete_sameControls { s with h := x, hEmpty := b } 0, fun _ _ => rfl⟩

/-- Settles O16. -/
theorem hinitRestartsTranscript : Obligations.HinitRestartsTranscript := by
  unfold Obligations.HinitRestartsTranscript
  intro s
  obtain ⟨hrec, hcontrols, hdmem⟩ := s.complete_withTranscript_frame (Vector.replicate 32 0) true
  exact ⟨_, exec_hinit s, hrec, hcontrols, hdmem, rfl, rfl⟩

/-- Settles O17: `H_EMPTY` decides whether the old transcript goes before the data. -/
theorem hupdHashesIntoTranscript : Obligations.HupdHashesIntoTranscript := by
  unfold Obligations.HupdHashesIntoTranscript
  intro s hsrc d
  obtain ⟨hrec, hcontrols, hdmem⟩ := s.complete_withTranscript_frame (s.nextTranscript d) false
  exact ⟨_, exec_hupd hsrc, hrec, hcontrols, hdmem, rfl, State.nextTranscript_of_empty d,
    State.nextTranscript_of_not_empty d⟩

/-- Settles O18. -/
theorem hreadStoresTranscript : Obligations.HreadStoresTranscript := by
  unfold Obligations.HreadStoresTranscript
  intro s hdst
  refine State.stores_of_complete ?_
  rw [exec_hread hdst, Vector.length_toList]

/-- Settles O19: the message is read before the digest is written. -/
theorem shaStoresDigest : Obligations.ShaStoresDigest := by
  unfold Obligations.ShaStoresDigest
  intro s hsrc hdst
  refine State.stores_of_complete ?_
  rw [exec_sha hsrc hdst, Vector.length_toList]
  rfl

/-! ### Who writes the transcript (43_transcript.md R134) -/

/-- The steps that may write the transcript: the completion of HINIT or HUPD, and a reset. -/
def State.NextMayWriteTranscript (s : State) : Prop :=
  (s.NextIsCompletion ∧ (decode (joinWord s.latched.commandWord) = .ok .hinit
    ∨ decode (joinWord s.latched.commandWord) = .ok .hupd)) ∨ s.NextIsReset

/-- START, accepted or refused, leaves the transcript. -/
theorem State.start_sameTranscript (s : State) : s.SameTranscript s.start := by
  cases h : s.phase with
  | idle => exact ⟨s.start_idle_h h, s.start_idle_hEmpty h⟩
  | busy => rw [s.start_busy h]; exact ⟨rfl, rfl⟩

/-- Every other step leaves the transcript. -/
theorem StepEnd.sameTranscript {s t : State} (h : StepEnd s t) (hn : ¬ s.NextMayWriteTranscript) :
    s.SameTranscript t := by
  cases h with
  | completed i _ hc hd _ hx =>
    refine hx.sameTranscript ?_ ?_
    · rintro rfl
      exact hn (.inl ⟨hc, .inl hd⟩)
    · rintro rfl
      exact hn (.inl ⟨hc, .inr hd⟩)
  | reset _ hr => exact absurd (.inr hr) hn
  | start v rest =>
    exact State.start_sameTranscript { s with irqEn := v.getLsbD 2, pending := rest, wait := s.wait - 1 }
  | illegal | irqEnable | status | registers | dmemWrite => exact ⟨rfl, rfl⟩

/-- Settles O46, from the ways a step can end. -/
theorem transcriptIsWrittenByHinitHupdAndReset : Obligations.TranscriptIsWrittenByHinitHupdAndReset := by
  unfold Obligations.TranscriptIsWrittenByHinitHupdAndReset
  intro s t h hne
  by_contra hn
  obtain ⟨hh, hempty⟩ := (step_ends s t h).sameTranscript hn
  exact hne.elim (absurd hh) (absurd hempty)

end Sys2Proof.Machine

/-!
PROOFS. The command lifecycle (spec/44_control.md): START while IDLE and while BUSY, the phase, what stands still while a
command is held, the word that a completion runs, and the commands NOP and ZERO.
-/

namespace Sys2Proof.Machine

/-! ### START (44_control.md R137, R138) -/

/-- CTR_HI and CTR_LO fill the counter's 64 bits, so it does not wrap (10_state.md R34). -/
theorem State.counter_toNat (s : State) : s.counter.toNat = s.ctrHi.toNat * 2 ^ 32 + s.ctrLo.toNat := by
  have hhi := s.ctrHi.isLt
  have hlo := s.ctrLo.isLt
  rw [State.counter, BitVec.toNat_ofNat]
  omega

/-- The BUSY bit is 1 after every START: an accepted one sets it, a refused one found it set. -/
@[simp] theorem State.start_phase (s : State) : s.start.phase = .busy := by
  cases h : s.phase with
  | idle => exact s.start_idle_phase h
  | busy => rw [s.start_busy h]; exact h

@[simp] theorem State.start_dmem (s : State) : s.start.dmem = s.dmem := by
  cases h : s.phase with
  | idle => exact s.start_idle_dmem h
  | busy => rw [s.start_busy h]

theorem State.busWrite_start (s : State) {v : Word} (h0 : v.getLsbD 0 = true) (h1 : v.getLsbD 1 = false) :
    s.busWrite .word 0x004 v = (State.start { s with irqEn := v.getLsbD 2 }, .ack) := by
  rw [s.busWrite_ctrl, s.writeCtrl_start v h1 h0]

/-- Settles O36. -/
theorem startLatchesOperands : Obligations.StartLatchesOperands := by
  unfold Obligations.StartLatchesOperands
  intro s v hidle h0 h1
  refine ⟨_, s.busWrite_start h0 h1, ?_⟩
  have hlatched : (State.start { s with irqEn := v.getLsbD 2 }).latched = s.operands :=
    State.start_idle_latched _ hidle
  simp only [hlatched]
  refine ⟨rfl, rfl, rfl, rfl, rfl, rfl, rfl, rfl, rfl, s.counter_toNat, ?_⟩
  simp [hidle, State.irq, State.SameDmem, State.SameDmemWhere]

/-- Settles O37. -/
theorem startWhileBusyOnlySetsOvr : Obligations.StartWhileBusyOnlySetsOvr := by
  unfold Obligations.StartWhileBusyOnlySetsOvr
  intro s v hbusy h0 h1
  rw [s.busWrite_start h0 h1, State.start_busy { s with irqEn := v.getLsbD 2 } hbusy]

/-! ### The phase (44_control.md R136) -/

/-- The host's step that writes CTRL does to the block what the write does, and records an acknowledge. -/
theorem State.hostStep_writeCtrl (s : State) (v : Word) (rest : List HostEvent) :
    s.hostStep (.access (.write .word 0x004 v)) rest
      = { State.writeCtrl { s with pending := rest, wait := s.wait - 1 } v with
          replies := .ack :: (State.writeCtrl { s with pending := rest, wait := s.wait - 1 } v).replies } := by
  simp only [State.hostStep, State.perform, State.busWrite_ctrl]

/-- Every START step leads to BUSY, accepted or refused. -/
theorem State.NextIsStart.phase_busy {s t : State} (hs : s.NextIsStart) (h : step s = .next t) : t.phase = .busy := by
  obtain ⟨v, ⟨rest, ht⟩, h0, h1⟩ := hs
  rw [step_of_turn_host ht, s.hostStep_writeCtrl, State.writeCtrl_start _ v h1 h0] at h
  cases h
  exact State.start_phase _

/-- Every reset leads to IDLE, whatever the phase. -/
theorem State.NextIsReset.phase_idle {s t : State} (hr : s.NextIsReset) (h : step s = .next t) : t.phase = .idle := by
  rcases hr with ⟨rest, ht⟩ | ⟨v, ⟨rest, ht⟩, h1⟩
  · rw [step_of_turn_host ht] at h
    cases h
    rfl
  · rw [step_of_turn_host ht, s.hostStep_writeCtrl, State.writeCtrl_srst _ v h1] at h
    cases h
    rfl

theorem State.NextIsCompletion.phase_idle {s t : State} (hc : s.NextIsCompletion) (h : step s = .next t) :
    t.phase = .idle := (completion_agents hc h).1

theorem State.AtResetValues.phase_idle {t : State} (h : t.AtResetValues) : t.phase = .idle := by
  obtain ⟨-, -, -, -, -, -, -, -, -, -, -, -, -, -, -, -, -, -, hp, -⟩ := h
  exact hp

/-- Everything a step can do to the phase. -/
theorem StepEnd.phase_cases {s t : State} (h : StepEnd s t) :
    (t.phase = .idle ∧ (s.NextIsCompletion ∨ s.NextIsReset)) ∨ (t.phase = .busy ∧ s.NextIsStart)
      ∨ t.phase = s.phase := by
  cases h with
  | completed _ _ hc _ _ hx => exact .inl ⟨hx.phase_idle, .inl hc⟩
  | illegal _ hc => exact .inl ⟨rfl, .inl hc⟩
  | reset _ hr hv => exact .inl ⟨hv.phase_idle, .inr hr⟩
  | start v rest _ ht h1 h0 => exact .inr (.inl ⟨State.start_phase _, v, ⟨rest, ht⟩, h0, h1⟩)
  | irqEnable | status | registers | dmemWrite => exact .inr (.inr rfl)

/-- Settles O47: what a step can do to the phase, and what each of the four events does to it. -/
theorem phaseChangesInFourWays : Obligations.PhaseChangesInFourWays := by
  unfold Obligations.PhaseChangesInFourWays
  intro s t h
  refine ⟨?_, fun hidle => ⟨⟨fun hbusy => ?_, fun hs => hs.phase_busy h⟩, fun ht => ?_⟩,
    fun hbusy => ⟨fun hidle => ?_, fun he => ?_⟩⟩
  · obtain ⟨w, hread, hbit, -⟩ := statusWordShowsFields s
    exact ⟨w, hread, by rw [hbit, decide_eq_true_iff]⟩
  · rcases (step_ends s t h).phase_cases with ⟨hp, -⟩ | ⟨-, hs⟩ | hp
    · simp [hp] at hbusy
    · exact hs
    · simp [hp, hidle] at hbusy
  · obtain ⟨hbusy, -⟩ := s.turn_engine_iff.mp ht
    simp [hidle] at hbusy
  · rcases (step_ends s t h).phase_cases with ⟨-, he⟩ | ⟨hp, -⟩ | hp
    · exact he
    · simp [hp] at hidle
    · simp [hp, hbusy] at hidle
  · exact he.elim (·.phase_idle h) (·.phase_idle h)

/-! ### What stands still until the completion (44_control.md R141) -/

/-- A step that leads to BUSY writes no DMEM: a command writes it as it ends, the host while IDLE only. -/
theorem StepEnd.dmem_eq_of_busy {s t : State} (h : StepEnd s t) (hb : t.phase = .busy) : t.dmem = s.dmem := by
  cases h with
  | completed _ _ _ _ _ hx => simp [hx.phase_idle] at hb
  | reset _ _ hv => simp [hv.phase_idle] at hb
  | start => exact State.start_dmem _
  | dmemWrite _ _ _ _ _ _ _ hi => simp [hi] at hb
  | illegal | irqEnable | status | registers => rfl

/-- Only an accepted START and a reset write the latched record. -/
theorem StepEnd.latched_eq {s t : State} (h : StepEnd s t) (hs : ¬ (s.phase = .idle ∧ s.NextIsStart))
    (hr : ¬ s.NextIsReset) : t.latched = s.latched := by
  cases h with
  | completed _ _ _ _ _ hx =>
    obtain ⟨-, hl, -⟩ := hx.sameControls
    exact hl
  | reset _ hreset => exact absurd hreset hr
  | start v rest _ ht h1 h0 =>
    cases hp : s.phase with
    | idle => exact absurd ⟨hp, v, ⟨rest, ht⟩, h0, h1⟩ hs
    | busy => simp [State.start_busy]
  | illegal | irqEnable | status | registers | dmemWrite => rfl

/-- Settles O48: a step that leads to BUSY is no completion and no reset, and from BUSY it is no accepted START. -/
theorem operandsStandUntilCompletion : Obligations.OperandsStandUntilCompletion := by
  unfold Obligations.OperandsStandUntilCompletion
  intro s t h hb
  have hend := step_ends s t h
  have hcomp : ¬ s.NextIsCompletion := fun hc => by simp [hc.phase_idle h] at hb
  have hreset : ¬ s.NextIsReset := fun hr => by simp [hr.phase_idle h] at hb
  obtain ⟨hh, hempty⟩ := hend.sameTranscript (by simp [State.NextMayWriteTranscript, hcomp, hreset])
  refine ⟨hend.dmem_eq_of_busy hb, hh, hempty, hend.dmemsz_eq, fun hbusy => ?_⟩
  have hstart : ¬ (s.phase = .idle ∧ s.NextIsStart) := by simp [hbusy]
  obtain ⟨-, -, hout⟩ := hend.sameRecord (by simp [State.NextMayRecord, hstart, hcomp, hreset])
  exact ⟨hend.latched_eq hstart hreset, hout⟩

/-! ### The word that a completion runs (44_control.md R139) -/

theorem step_of_legal {s : State} {i : Instr} (hc : s.NextIsCompletion)
    (hd : decode (joinWord s.latched.commandWord) = .ok i) : step s = exec i s := by
  rw [decode_joinWord] at hd
  simp [step, hc.turn, State.fetch, hd]

/-- The word that `withFetchWord` latches is the word it was given. -/
theorem State.withFetchWord_commandWord (s : State) (w : Word) :
    (s.withFetchWord 32 w.toNat).latched.commandWord = splitWord w := by
  rw [State.withFetchWord, Nat.mod_eq_of_lt w.isLt, BitVec.ofNat_toNat, BitVec.setWidth_eq]
  rfl

/-- Settles O4: a word placed by `withFetchWord` is a case of a latched word whose completion is next. -/
theorem stepRunsLatchedCommand : Obligations.StepRunsLatchedCommand := by
  unfold Obligations.StepRunsLatchedCommand
  refine fun s i => ⟨step_of_legal, fun w hd => step_of_legal ⟨rfl, .inl rfl⟩ ?_⟩
  rw [s.withFetchWord_commandWord w, joinWord_splitWord, hd]

/-! ### NOP and ZERO (44_control.md R143, R144) -/

theorem exec_nop (s : State) : exec .nop s = .next (s.complete 0) := rfl

theorem exec_zero {s : State} (hdst : s.Fits s.latched.dst s.latched.len.toNat) :
    exec .zero s = .next ((s.memWrite s.latched.dst (zeros s.latched.len.toNat)).complete s.latched.len.toNat) :=
  congrArg Host.Outcome.next (if_pos ((s.inRange_iff_fits ..).mpr hdst))

/-- Settles O5. -/
theorem nopCompletes : Obligations.NopCompletes := by
  unfold Obligations.NopCompletes
  intro s
  exact ⟨_, exec_nop s, s.complete_recordsSuccess 0, s.complete_sameControls 0, ⟨rfl, rfl⟩, fun _ _ => rfl⟩

/-- Settles O20. -/
theorem zeroClearsRegion : Obligations.ZeroClearsRegion := by
  unfold Obligations.ZeroClearsRegion
  intro s hdst
  refine State.stores_of_complete ?_
  rw [exec_zero hdst, List.length_replicate]
  rfl

end Sys2Proof.Machine

/-!
PROOFS. The order of the errors (spec/60_exceptions.md R149): what the order asks of each command, and that each command
tests its errors in that order.
-/

namespace Sys2Proof.Machine

/-! ### How a command answers (60_exceptions.md R150; 44_control.md R140) -/

/-- Command `i` completes and records `answer`: an error, or success where there is none. -/
def State.Answers (s : State) (i : Instr) (answer : Option ErrCode) : Prop :=
  ∃ t, exec i s = .next t ∧
    match answer with
    | some e => s.RecordsError t e
    | none => s.RecordsSuccess t (outLength i s.latched)

/-- A command that ends without ERR records success, with the length of its out region. -/
theorem CommandEnd.recordsSuccess {i : Instr} {s t : State} (h : CommandEnd i s t) (herr : t.err = false) :
    s.RecordsSuccess t (outLength i s.latched) := by
  cases h with
  | failed => simp at herr
  | stored v n hout =>
    rw [outLength, hout]
    exact (s.memWrite s.latched.dst v).complete_recordsSuccess n
  | checked hout =>
    rw [outLength, hout]
    exact s.complete_recordsSuccess 0
  | restarted hi | updated hi =>
    subst hi
    exact State.complete_recordsSuccess _ 0

theorem State.answers_error {s : State} {i : Instr} {e : ErrCode} (h : exec i s = .next (s.raise e)) :
    s.Answers i (some e) := ⟨_, h, s.raise_recordsError e⟩

/-- Whatever a command writes before `complete(n)`, it answers success. -/
theorem State.answers_success {s u : State} {i : Instr} {n : Nat} (h : exec i s = .next (u.complete n)) :
    s.Answers i none := ⟨_, h, (exec_cases i s _ h).recordsSuccess rfl⟩

/-! ### The order, command by command (60_exceptions.md R149) -/

/-- The commands that R149 names under no error but BOUNDS. -/
def OnlyChecksRegions (i : Instr) : Prop :=
  (∀ a, i ≠ .aeadDec a) ∧ i ≠ .ecdh ∧ i ≠ .ecpub ∧ i ≠ .pkcheck

theorem State.firstError_aeadDec (s : State) (a : AdSource) :
    s.firstError (.aeadDec a)
      = if s.latched.len.toNat < 16 then some .malformed
        else if s.regionsInRange (.aeadDec a) = false then some .bounds
        else (s.opened a).elim (some .authFail) fun _ => none := by
  cases hopen : s.opened a <;> rw [State.opened] at hopen <;> simp [State.firstError, hopen]

theorem State.firstError_ecdh (s : State) :
    s.firstError .ecdh
      = if s.regionsInRange .ecdh = false then some .bounds
        else (decompress (s.memRead s.latched.src 33)).elim (some .invalidPubkey) fun _ =>
          if validScalar (s.memRead s.latched.key 32) then none else some .invalidSeckey := by
  simp only [State.firstError, ← validScalar_iff]
  cases validScalar (s.memRead s.latched.key 32) <;> cases decompress (s.memRead s.latched.src 33) <;> simp

theorem State.firstError_ecpub (s : State) :
    s.firstError .ecpub
      = if s.regionsInRange .ecpub = false then some .bounds
        else if validScalar (s.memRead s.latched.key 32) then none
        else some .invalidSeckey := by
  simp only [State.firstError, ← validScalar_iff]
  cases validScalar (s.memRead s.latched.key 32) <;> simp

theorem State.firstError_pkcheck (s : State) :
    s.firstError .pkcheck
      = if s.regionsInRange .pkcheck = false then some .bounds
        else (decompress (s.memRead s.latched.src 33)).elim (some .invalidPubkey) fun _ => none := by
  simp only [State.firstError]
  cases decompress (s.memRead s.latched.src 33) <;> simp

theorem State.firstError_of_onlyChecksRegions {i : Instr} (hi : OnlyChecksRegions i) (s : State) :
    s.firstError i = if s.regionsInRange i = false then some .bounds else none := by
  obtain ⟨hdec, hecdh, hecpub, hpkcheck⟩ := hi
  simp [State.firstError, hecdh, hecpub, hpkcheck]

/-! ### Each command tests its errors in the order (60_exceptions.md R149) -/

/-- The regions of a command whose check succeeds. -/
theorem State.fits_of_regionsInRange {s : State} {i : Instr} (h : s.regionsInRange i = true) {a : Word} {n : Nat}
    (hr : (a, n) ∈ inRegions i s.latched ∨ outRegion i s.latched = some (a, n)) : s.Fits a n := by
  by_contra hfits
  have hout := State.regionsInRange_eq_false hr (not_le.mp hfits)
  simp [h] at hout

/-- BOUNDS comes before every error that a command finds with its regions in range. -/
theorem State.answers_of_regions {s : State} {i : Instr} {answer : Option ErrCode}
    (hdec : (∃ a, i = .aeadDec a) → 16 ≤ s.latched.len.toNat)
    (h : s.regionsInRange i = true → s.Answers i answer) :
    s.Answers i (if s.regionsInRange i = false then some .bounds else answer) := by
  split
  case isTrue hbounds => exact State.answers_error (exec_eq_raise_bounds hbounds hdec)
  case isFalse hregions => exact h (Bool.eq_true_of_not_eq_false hregions)

theorem State.answers_aeadDec (s : State) (a : AdSource) : s.Answers (.aeadDec a) (s.firstError (.aeadDec a)) := by
  rw [s.firstError_aeadDec a]
  split
  case isTrue hshort => exact State.answers_error (congrArg Host.Outcome.next (if_pos hshort))
  case isFalse hlen =>
    have hlen := not_lt.mp hlen
    refine State.answers_of_regions (fun _ => hlen) fun hregions => ?_
    have hexec := exec_aeadDec hlen hregions
    cases hopen : s.opened a with
    | none => exact State.answers_error (by simpa [hopen] using hexec)
    | some pt => exact State.answers_success (by simpa [hopen] using hexec)

theorem State.answers_ecdh (s : State) : s.Answers .ecdh (s.firstError .ecdh) := by
  rw [s.firstError_ecdh]
  refine State.answers_of_regions (by simp) fun hregions => ?_
  have fits := fun a n => State.fits_of_regionsInRange hregions (a := a) (n := n)
  have hexec := exec_ecdh (fits _ _ (.inl (.head _))) (fits _ _ (.inl (.tail _ (.head _)))) (fits _ _ (.inr rfl))
  cases hpub : decompress (s.memRead s.latched.src 33) with
  | none => exact State.answers_error (by simpa [hpub] using hexec)
  | some q =>
    cases hsec : validScalar (s.memRead s.latched.key 32) with
    | false => exact State.answers_error (by simpa [hpub, hsec] using hexec)
    | true => exact State.answers_success (by simpa [hpub, hsec] using hexec)

theorem State.answers_ecpub (s : State) : s.Answers .ecpub (s.firstError .ecpub) := by
  rw [s.firstError_ecpub]
  refine State.answers_of_regions (by simp) fun hregions => ?_
  have hexec := exec_ecpub (State.fits_of_regionsInRange hregions (.inl (.head _)))
    (State.fits_of_regionsInRange hregions (.inr rfl))
  cases hsec : validScalar (s.memRead s.latched.key 32) with
  | false => exact State.answers_error (by simpa [hsec] using hexec)
  | true => exact State.answers_success (by simpa [hsec] using hexec)

theorem State.answers_pkcheck (s : State) : s.Answers .pkcheck (s.firstError .pkcheck) := by
  rw [s.firstError_pkcheck]
  refine State.answers_of_regions (by simp) fun hregions => ?_
  have hexec := exec_pkcheck (State.fits_of_regionsInRange hregions (.inl (.head _)))
  cases hpub : decompress (s.memRead s.latched.src 33) with
  | none => exact State.answers_error (by simpa [hpub] using hexec)
  | some q => exact State.answers_success (by simpa [hpub] using hexec)

/-- With its regions in range, a command that R149 names under no other error succeeds. -/
theorem State.answers_success_of_onlyChecksRegions {i : Instr} {s : State} (hi : OnlyChecksRegions i)
    (h : s.regionsInRange i = true) : s.Answers i none := by
  obtain ⟨hdec, hecdh, hecpub, hpkcheck⟩ := hi
  have fits := fun a n => State.fits_of_regionsInRange h (a := a) (n := n)
  cases i with
  | nop => exact State.answers_success (exec_nop s)
  | aeadEnc a => exact State.answers_success (exec_aeadEnc h)
  | hkdf =>
    exact State.answers_success
      (exec_hkdf (fits _ _ (.inl (.head _))) (fits _ _ (.inl (.tail _ (.head _)))) (fits _ _ (.inr rfl)))
  | hinit => exact State.answers_success (exec_hinit s)
  | hupd => exact State.answers_success (exec_hupd (fits _ _ (.inl (.head _))))
  | hread => exact State.answers_success (exec_hread (fits _ _ (.inr rfl)))
  | sha => exact State.answers_success (exec_sha (fits _ _ (.inl (.head _))) (fits _ _ (.inr rfl)))
  | zero => exact State.answers_success (exec_zero (fits _ _ (.inr rfl)))
  | aeadDec a => exact absurd rfl (hdec a)
  | ecdh => exact absurd rfl hecdh
  | ecpub => exact absurd rfl hecpub
  | pkcheck => exact absurd rfl hpkcheck

theorem State.answers_of_onlyChecksRegions {i : Instr} (hi : OnlyChecksRegions i) (s : State) :
    s.Answers i (s.firstError i) := by
  rw [State.firstError_of_onlyChecksRegions hi]
  exact State.answers_of_regions (fun ⟨a, ha⟩ => absurd ha (hi.1 a)) (State.answers_success_of_onlyChecksRegions hi)

/-- Every command answers with the first error of the order, or with success where none applies. -/
theorem State.answers_firstError (s : State) (i : Instr) : s.Answers i (s.firstError i) := by
  cases i with
  | aeadDec a => exact s.answers_aeadDec a
  | ecdh => exact s.answers_ecdh
  | ecpub => exact s.answers_ecpub
  | pkcheck => exact s.answers_pkcheck
  | nop | aeadEnc | hkdf | hinit | hupd | hread | sha | zero =>
    exact State.answers_of_onlyChecksRegions (by simp [OnlyChecksRegions]) s

/-- Settles O22: the order of a legal word is the command's own, and an illegal word runs no command. -/
theorem firstApplicableErrorIsReported : Obligations.FirstApplicableErrorIsReported := by
  unfold Obligations.FirstApplicableErrorIsReported
  refine ⟨fun i s => s.answers_firstError i, fun s hc herr => ?_⟩
  exact ⟨_, step_of_illegal hc herr, s.raise_recordsError .illegal⟩

end Sys2Proof.Machine

/-!
PROOFS. Reset and hazards (spec/70_reset_and_hazards.md): what a soft reset leaves, and that the latency of a command
changes no result while the host only polls.
-/

namespace Sys2Proof.Machine

/-! ### Soft reset (70_reset_and_hazards.md R165) -/

theorem State.softReset_atResetValues (s : State) : s.softReset.AtResetValues := by
  simp [State.AtResetValues, State.irq]

theorem State.softReset_dmem_read (s : State) (a : Nat) : s.softReset.dmem.read a = 0 := rfl

/-- Settles O40. -/
theorem softResetClearsEverything : Obligations.SoftResetClearsEverything := by
  unfold Obligations.SoftResetClearsEverything
  intro s v h1
  refine ⟨State.softReset { s with irqEn := v.getLsbD 2 }, ?_, State.softReset_atResetValues _,
    State.softReset_dmemsz _, State.softReset_dmem_read _⟩
  rw [s.busWrite_ctrl, s.writeCtrl_srst v h1]

/-! ### The latency of a command (70_reset_and_hazards.md R169) -/

/-- `s` with another wait and another record of the host: all that polling changes while a command is held. -/
def State.withHost (s : State) (w : Nat) (p : List HostEvent) (r : List Reply) : State :=
  { s with wait := w, pending := p, replies := r }

/-- No command reads the wait or the record of the host. -/
theorem State.withHost_sameInputs (s : State) (w : Nat) (p : List HostEvent) (r : List Reply) :
    s.SameInputs (s.withHost w p r) := ⟨rfl, rfl, rfl, rfl, rfl⟩

/-- A poll that comes before the completion is due leaves the command as it is, and one event fewer to come. -/
theorem step_of_poll {s : State} {w : Width} {o : BitVec 21} {rest : List HostEvent} (hb : s.phase = .busy)
    (hw : s.wait ≠ 0) (hp : s.pending = .access (.read w o) :: rest) (ho : o.toNat < 0x1000) :
    ∃ r, step s = .next (s.withHost (s.wait - 1) rest r) :=
  ⟨_, registerAccessesAreNotHeld s _ rest hb hw hp ho⟩

/-- By induction on the polls to come: each is performed, or the completion is due before it. -/
theorem polls_lead_to_completion (s : State) (hb : s.phase = .busy) (hpolls : s.HostOnlyPolls) :
    ∃ k w p r, k ≤ s.pending.length + 1 ∧ (s.withHost w p r).NextIsCompletion
      ∧ ∀ t, step (s.withHost w p r) = .next t → Sys2Proof.core.run k s = .next t := by
  induction hp : s.pending generalizing s with
  | nil =>
    have hc : s.NextIsCompletion := ⟨hb, .inr (by simp [hp])⟩
    exact ⟨1, s.wait, s.pending, s.replies, by simp, hc, fun t ht => core_run_succ_of_step ht 0⟩
  | cons e rest ih =>
    by_cases hw : s.wait = 0
    · exact ⟨1, s.wait, s.pending, s.replies, by simp, ⟨hb, .inl hw⟩, fun t ht => core_run_succ_of_step ht 0⟩
    · rw [State.HostOnlyPolls, hp, List.forall_mem_cons] at hpolls
      obtain ⟨⟨width, o, rfl, ho⟩, hrest⟩ := hpolls
      obtain ⟨r', hs⟩ := step_of_poll hb hw hp ho
      obtain ⟨k, w, p, r, hk, hc, hrun⟩ := ih (s.withHost (s.wait - 1) rest r') hb hrest rfl
      exact ⟨k + 1, w, p, r, by simpa using hk, hc, fun t ht => (core_run_succ_of_step hs k).trans (hrun t ht)⟩

/-- A command's two ends that agree on its result agree on everything but the record of the host. -/
theorem CommandEnd.eq_of_sameResult {i : Instr} {s u t : State} {w : Nat} {p : List HostEvent} {r : List Reply}
    (hu : CommandEnd i s u) (ht : CommandEnd i (s.withHost w p r) t) (hres : u.SameResult t) :
    t = { u with pending := t.pending, replies := t.replies } := by
  have hphase := ht.phase_idle.trans hu.phase_idle.symm
  have hwait := ht.wait_eq_zero.trans hu.wait_eq_zero.symm
  have hcu := hu.sameControls
  have hct := ht.sameControls
  cases t
  cases u
  simp_all [State.SameResult, State.SameControls, State.SameRegisters, State.withHost]

/-- What a completion does, the wait and the record of the host aside, does not depend on them. -/
theorem completion_withHost {s u t : State} {w : Nat} {p : List HostEvent} {r : List Reply} (hs : s.NextIsCompletion)
    (hc : (s.withHost w p r).NextIsCompletion) (hu : step s = .next u) (ht : step (s.withHost w p r) = .next t) :
    t = { u with pending := t.pending, replies := t.replies } := by
  cases hd : decode (joinWord s.latched.commandWord) with
  | ok i =>
    rw [step_of_legal hs hd] at hu
    rw [step_of_legal hc hd] at ht
    obtain ⟨u', t', hu', ht', hres⟩ := exec_sameResult_of_sameInputs (s.withHost_sameInputs w p r) i
    cases hu.symm.trans hu'
    cases ht.symm.trans ht'
    exact (exec_cases i _ _ hu).eq_of_sameResult (exec_cases i _ _ ht) hres
  | error e =>
    cases (step_of_illegal hs ⟨e, hd⟩).symm.trans hu
    cases (step_of_illegal hc ⟨e, hd⟩).symm.trans ht
    rfl

/-- Settles O52: the polls lead to a completion of the same command on the same inputs. -/
theorem resultsDoNotDependOnLatency : Obligations.ResultsDoNotDependOnLatency := by
  unfold Obligations.ResultsDoNotDependOnLatency
  intro s u hb hpolls hu
  have hnow : (s.withHost s.wait [] s.replies).NextIsCompletion := ⟨hb, .inr (by simp [State.withHost])⟩
  obtain ⟨k, w, p, r, hk, hc, hrun⟩ := polls_lead_to_completion s hb hpolls
  obtain ⟨t, ht, -⟩ := step_idle_of_turn_engine _ hc.turn
  exact ⟨k, t, hk, hrun t ht, completion_withHost hnow hc hu ht⟩

end Sys2Proof.Machine
